-- ==== Sys2Proof/Word.lean ====
section
/-! DEFINITION. The word types of ICE-CORE (spec/00_scope.md rule R6): bytes, 32-bit words, 16-bit key words,
20-bit subkey words and 16-bit window offsets. Arithmetic on them is core Lean's `BitVec` arithmetic, which is
rule R7's: `^^^`, `&&&`, `|||`, a truncating `<<<` and a zero-filling `>>>`. -/

namespace Sys2Proof

/-- A byte: 8 bits (R6). -/
abbrev Byte := BitVec 8

/-- A word: 32 bits (R6). Every host-visible register is one (R23). -/
abbrev Word := BitVec 32

/-- A key word: 16 bits (R6, R37). -/
abbrev KeyWord := BitVec 16

/-- A subkey word: 20 bits (R6, R43, R151; 90_conflicts.md C1). -/
abbrev SubkeyWord := BitVec 20

/-- A byte offset in the register window: 16 bits (R61). -/
abbrev Offset := BitVec 16

end Sys2Proof
end

