-- ==== Sys2Proof/Machine/Bytes.lean ====
section
/-! DEFINITION. Byte sequences and the cipher's fixed big-endian order (spec/00_scope.md rule R8,
spec/20_memory.md rule R70). -/

namespace Sys2Proof.Machine

/-- `BE16(b0, b1)` (R8). -/
def be16 (b0 b1 : Byte) : KeyWord := b0 ++ b1

/-- `BE32(b0, b1, b2, b3)`, first byte most significant (R8). -/
def be32 (b0 b1 b2 b3 : Byte) : Word := b0 ++ b1 ++ b2 ++ b3

/-- `bytesBE32(w)`: `w[31:24], w[23:16], w[15:8], w[7:0]` (R8). -/
def bytesBE32 (w : Word) : List Byte :=
  [w.extractLsb' 24 8, w.extractLsb' 16 8, w.extractLsb' 8 8, w.extractLsb' 0 8]

/-- `zeros(n)` (R8). -/
def zeros (n : Nat) : List Byte := List.replicate n 0

/-- Byte `i` of a sequence (R8). -/
def byteAt (b : List Byte) (i : Nat) : Byte := b.getD i 0

end Sys2Proof.Machine
end

