-- ==== Sys2Proof/Config.lean ====
section
/-! DEFINITION. What an implementation fixes (spec/00_scope.md rule R5) and the values the spec leaves open
(spec/93_implementation_defined.md). The parameters are a record that `State` carries and no step changes, so
that a statement over all states is a statement over all implementations; the open values are constants with no
body, so that no proof can see what they are. -/

namespace Sys2Proof

/-- `SHORT_KEY_POLICY` (R5, R142, R143; D11): what NEW does with fewer key bytes than `keySize`. -/
inductive ShortKeyPolicy where
  | reject
  | zeroPad
deriving DecidableEq, Repr

/-- `DEC_PARTIAL_POLICY` (R5, R192; D18): what DEC does with a length that is no multiple of 8. -/
inductive DecPartialPolicy where
  | reject
  | truncate
deriving DecidableEq, Repr

/-- The implementation parameters of rule R5. -/
structure Params where
  /-- `MAX_LEVEL`, the largest level NEW accepts (D8). -/
  maxLevel : Nat
  /-- `DBUF_BYTES`, the size of the data buffer (D5). -/
  dbufBytes : Nat
  shortKey : ShortKeyPolicy
  decPartial : DecPartialPolicy
deriving DecidableEq, Repr

/-- `KS_ENTRIES` = max(8, 16 × MAX_LEVEL) subkey triples (R5, R43). -/
def Params.ksEntries (c : Params) : Nat := max 8 (16 * c.maxLevel)

/-- The parameters `State.reset` is built with. DESIGN CHOICE (log entry 1): MAX_LEVEL and DBUF_BYTES are OPEN
in the spec; the two policies are its recommendation. -/
def Config.params : Params where
  maxLevel := 8
  dbufBytes := 4096
  shortKey := .reject
  decPartial := .reject

/-- FREE VALUE: what a DBUF byte that nothing has written since reset reads as (R48, R63; U6), for a draw and a
byte address. -/
opaque Config.freeByte : Nat → Nat → Byte

/-- FREE VALUE: what a host read returns whose value the spec leaves unspecified (R69, R83, R265; U7, U13),
for a draw. -/
opaque Config.freeWord : Nat → Word

/-- FREE VALUE: whether a DBUF byte in the output region of a command that reset abandons holds its old value
(R262; U11), for a draw and a byte address. -/
opaque Config.keepsOld : Nat → Nat → Bool

end Sys2Proof
end

