-- ==== Sys2Proof/Machine/State.lean ====
section
/-! DEFINITION. The architectural state of ICE-CORE (spec/10_state.md rule R21) as plain data, the events that
drive it, and its value after reset (R48). STATUS and INTEN are held as their fields and assembled in Flags.lean
(reserved bits read 0, R49); STATUS.BUSY is the command state itself (R26); `irq` is computed from DONE and DONEIE
(R47). ID, BLKSIZE, CAPS0, CAPS1 are constants or parameters, and the constant tables of R45 are in Tables.lean. -/

namespace Sys2Proof.Machine

/-- CSTATE (R22). `busy` is also STATUS.BUSY = 1 (R26). -/
inductive CState where
  | idle
  | busy
deriving DecidableEq, Repr

/-- The error codes of rule R231. -/
inductive ErrCode where
  | ok
  | illegal
  | noKey
  | level
  | range
  | keyLen
  | inLen
deriving DecidableEq, Repr

/-- The sixteen host-visible registers (R23). -/
inductive Reg where
  | id | status | inten | cmd
  | arg0 | arg1 | arg2 | result
  | data0 | data1 | level | rounds
  | keysize | blksize | caps0 | caps1
deriving DecidableEq, Repr

/-- A host access to the register window, by offset and width (R64, R65, R101). The 16-bit accesses exist on the
bus and are never legal. -/
inductive HostOp where
  | rd8 (off : Offset)
  | rd16 (off : Offset)
  | rd32 (off : Offset)
  | wr8 (off : Offset) (v : Byte)
  | wr16 (off : Offset) (v : BitVec 16)
  | wr32 (off : Offset) (v : Word)
deriving DecidableEq, Repr

/-- One entry of the schedule: a host step, a turn of the engine, or an assertion of the reset input
(R20, R22, R77, R260). -/
inductive Event where
  | host (op : HostOp)
  | engine
  | reset
deriving DecidableEq, Repr

/-- What the host port last answered: nothing since reset, a read's data, a write's acknowledgement, or the error
response of a bus error (R69; a read's data is then unspecified). -/
inductive Response where
  | none
  | data8 (v : Byte)
  | data32 (v : Word)
  | ack
  | readError (unspecified : Word)
  | writeError
deriving DecidableEq, Repr

/-- A subkey triple `KS[i][0..2]` (R12, R43): three 20-bit subkey words. -/
structure Subkey where
  k0 : SubkeyWord
  k1 : SubkeyWord
  k2 : SubkeyWord
deriving DecidableEq, Repr

/-- KBW, the key-word working register `kb[0..3]` (R37). -/
structure KBW where
  w0 : KeyWord
  w1 : KeyWord
  w2 : KeyWord
  w3 : KeyWord
deriving DecidableEq, Repr

/-- DBUF (R63): the bytes written since reset, by DBUF address, addresses strictly rising. An address that is not
listed holds no known value (R48). -/
abbrev Memory := List Host.Cell

/-- The state of ICE-CORE (R21), with the model's own fields `cfg`, `port`, `events` and `draws` at the end. -/
structure State where
  /-- CSTATE, and STATUS.BUSY (R22, R26). -/
  cstate : CState
  /-- PEND, the latched command word (R22). -/
  pend : Word
  /-- STATUS.SPBV (R27). -/
  spbv : Bool
  /-- STATUS.KEYV (R28). -/
  keyv : Bool
  /-- STATUS.DONE (R29). -/
  done : Bool
  /-- STATUS.OVR (R30). -/
  ovr : Bool
  /-- STATUS.ERR (R31). -/
  err : BitVec 8
  /-- INTEN.DONEIE (R32). -/
  doneie : Bool
  /-- ARG0, ARG1, ARG2 (R34). -/
  arg0 : Word
  arg1 : Word
  arg2 : Word
  /-- RESULT (R35). -/
  result : Word
  /-- DATA0, DATA1 (R36). -/
  data0 : Word
  data1 : Word
  /-- LEVEL (R38). -/
  level : Word
  /-- ROUNDS (R39). -/
  rounds : Word
  /-- KEYSIZE (R40). -/
  keysize : Word
  /-- KBW (R37). -/
  kbw : KBW
  /-- KS, the key-schedule storage, KS_ENTRIES triples (R43). -/
  ks : List Subkey
  /-- SP, the SP-box storage, four tables of 1024 words (R44). -/
  sp : List (List Word)
  /-- L and R, the half-block working registers (R51). -/
  l : Word
  r : Word
  /-- DBUF (R63). -/
  dbuf : Memory
  /-- MODEL'S OWN: the implementation parameters (R5), which no step changes. -/
  cfg : Params
  /-- MODEL'S OWN: the last response on the host port. -/
  port : Response
  /-- MODEL'S OWN: the host steps, engine turns and resets still to come, oldest first. -/
  events : List Event
  /-- MODEL'S OWN: the counter the free values of Config are drawn with; every step advances it. -/
  draws : Nat
deriving DecidableEq, Repr

/-- No step of this machine ends in a fault: a command that fails completes with an error code (R230, R232), and
a bus error is an error response that leaves the state as it was (R69, R236). The type has no constructor, so
that this is a fact of the type: safe, no behaviour is cut off. -/
inductive Fault where
deriving DecidableEq, Repr

/-- Why an instruction has no meaning. -/
inductive Refusal where
  /-- Raised by an arm of `exec` for a command that has no meaning yet; no arm does. Safe: the run stops. -/
  | notModelled (mnemonic : String)
deriving DecidableEq, Repr

/-- What a step answers. -/
abbrev Result := Host.Outcome State Fault Refusal

/-- SP at reset: unspecified (R48); four tables of 1024 zero words, a DESIGN CHOICE (log entry 2). -/
def spAtReset : List (List Word) := List.replicate 4 (List.replicate 1024 0)

/-- The state after reset (R48, R260), for the parameters, the schedule and the draw counter, which reset does
not touch. PEND, KBW, KS, SP, L and R are unspecified there and unobservable (U9, U10): zero is a DESIGN CHOICE
(log entry 2). DBUF lists nothing: every byte reads as a free value until it is written (log entry 3). -/
def State.resetWith (c : Params) (events : List Event) (draws : Nat) : State where
  cstate := .idle
  pend := 0
  spbv := false
  keyv := false
  done := false
  ovr := false
  err := 0
  doneie := false
  arg0 := 0
  arg1 := 0
  arg2 := 0
  result := 0
  data0 := 0
  data1 := 0
  level := 0
  rounds := 0
  keysize := 0
  kbw := ⟨0, 0, 0, 0⟩
  ks := List.replicate c.ksEntries ⟨0, 0, 0⟩
  sp := spAtReset
  l := 0
  r := 0
  dbuf := []
  cfg := c
  port := .none
  events := events
  draws := draws

/-- The machine right after reset (R48): no event waiting. -/
def State.reset : State := State.resetWith Config.params [] 0

end Sys2Proof.Machine
end

