-- ==== Sys2Proof/Machine/Ops.lean ====
section
/-! DEFINITION. The named operations over DBUF and the command state: the one read and the one write of a byte,
the engine's `MemRead` and `MemWrite` (spec/20_memory.md rules R66, R67), issue (spec/10_state.md rule R22) and the
two completions (spec/60_exceptions.md rules R232, R233). ICE-CORE has no trap entry and no trap return (R241,
R242): a failed completion is the one thing that stands in their place. -/

namespace Sys2Proof.Machine

/-- What an address that is not listed holds: no known value (R48, R63). -/
def Memory.unlisted : Option Byte := none

/-- The byte listed at an address. -/
def Memory.read : Memory → Nat → Option Byte
  | [], _ => Memory.unlisted
  | (x, v) :: rest, a => if x = a then some v else Memory.read rest a

/-- Write one byte, keeping the addresses strictly rising. -/
def Memory.write : Memory → Nat → Byte → Memory
  | [], a, b => [(a, b)]
  | (x, v) :: rest, a, b =>
    if a < x then (a, b) :: (x, v) :: rest
    else if a = x then (a, b) :: rest
    else (x, v) :: Memory.write rest a b

/-- Write a byte sequence at ascending addresses (R67). -/
def Memory.writeBytes : Memory → Nat → List Byte → Memory
  | m, _, [] => m
  | m, a, b :: bs => Memory.writeBytes (m.write a b) (a + 1) bs

/-- The canonical form: addresses strictly rising. An unlisted address holds no value, so no entry can equal
what an unlisted address reads as. -/
abbrev Memory.wf (m : Memory) : Prop := m.Pairwise (fun p q => p.1 < q.1)

/-- `DBUF[a]` (R63). A byte that nothing has written since reset reads as a free value (R48, U6). -/
def State.dbufByte (s : State) (a : Nat) : Byte :=
  (s.dbuf.read a).getD (Config.freeByte s.draws a)

/-- `MemRead(addr, n)` (R66). -/
def State.memRead (s : State) (addr n : Nat) : List Byte :=
  (List.range n).map (fun k => s.dbufByte (addr + k))

/-- `MemWrite(addr, n, B)` with n the length of B (R67). -/
def State.memWrite (s : State) (addr : Nat) (b : List Byte) : State :=
  { s with dbuf := s.dbuf.writeBytes addr b }

/-- The 8-bit code of an error (R231). -/
def ErrCode.code : ErrCode → BitVec 8
  | .ok => 0x00
  | .illegal => 0x01
  | .noKey => 0x02
  | .level => 0x03
  | .range => 0x04
  | .keyLen => 0x05
  | .inLen => 0x06

/-- A completion: ERR, DONE, BUSY and CSTATE, and nothing else (R232, R233). -/
def State.complete (s : State) (e : ErrCode) : State :=
  { s with err := e.code, done := true, cstate := .idle }

/-- `raise Error(code)`: the failed completion (R232). -/
def State.failWith (s : State) (e : ErrCode) : State := s.complete e

/-- `complete with ERR = 0x00`: the successful completion (R233). -/
def State.succeed (s : State) : State := s.complete .ok

/-- Issue: latch the command word and become BUSY, and nothing else (R22). -/
def State.issue (s : State) (c : Word) : State := { s with pend := c, cstate := .busy }

/-- The execute step of a reserved command word (R96, R234). -/
def State.failIllegal (s : State) : State := s.failWith .illegal

/-- What every step does to the model's own fields: one event of the schedule is used up and the draw counter
advances. -/
def State.tick (s : State) : State := { s with events := s.events.tail, draws := s.draws + 1 }

end Sys2Proof.Machine
end

