-- ==== Sys2Proof/Machine/Flags.lean ====
section
/-! DEFINITION. The status and interrupt flags: STATUS and INTEN as words (spec/10_state.md rules R25, R32, R49),
the write-1-to-clear of STATUS, and the interrupt output (R47). -/

namespace Sys2Proof.Machine

/-- STATUS.BUSY, which is 1 exactly when CSTATE = BUSY (R26). -/
def State.busy (s : State) : Bool := decide (s.cstate = .busy)

/-- STATUS: reserved 31:16, ERR 15:8, reserved 7:5, OVR 4, DONE 3, KEYV 2, SPBV 1, BUSY 0 (R25, R49). -/
def State.statusWord (s : State) : Word :=
  (0 : BitVec 16) ++ s.err ++ (0 : BitVec 3) ++ BitVec.ofBool s.ovr ++ BitVec.ofBool s.done ++
    BitVec.ofBool s.keyv ++ BitVec.ofBool s.spbv ++ BitVec.ofBool s.busy

/-- A host write of `w` to STATUS: bit 3 clears DONE, bit 4 clears OVR, every other bit is ignored (R25). -/
def State.writeStatus (s : State) (w : Word) : State :=
  { s with done := s.done && !w.getLsbD 3, ovr := s.ovr && !w.getLsbD 4 }

/-- INTEN: DONEIE in bit 0, bits 31:1 read 0 (R32, R49). -/
def State.intenWord (s : State) : Word := (0 : BitVec 31) ++ BitVec.ofBool s.doneie

/-- A host write of `w` to INTEN: only bit 0 is kept (R32, R49). -/
def State.writeInten (s : State) (w : Word) : State := { s with doneie := w.getLsbD 0 }

/-- The interrupt output `irq = STATUS.DONE & INTEN.DONEIE`, a level (R47, R239). -/
def State.irq (s : State) : Bool := s.done && s.doneie

end Sys2Proof.Machine
end

