-- ==== Sys2Proof/Machine/Bus.lean ====
section
/-! DEFINITION. Host accesses to the register window (spec/20_memory.md rules R60 to R76, R83; spec/10_state.md
rules R23 to R42, R49): the window map, the legal widths and alignments, what a read returns and what a write
does, idle and busy, and the bus error. -/

namespace Sys2Proof.Machine

/-- The register at word k of the register space, offset 4k (R23). -/
def regAt (k : Nat) : Reg :=
  match k with
  | 0 => .id
  | 1 => .status
  | 2 => .inten
  | 3 => .cmd
  | 4 => .arg0
  | 5 => .arg1
  | 6 => .arg2
  | 7 => .result
  | 8 => .data0
  | 9 => .data1
  | 10 => .level
  | 11 => .rounds
  | 12 => .keysize
  | 13 => .blksize
  | 14 => .caps0
  | _ => .caps1

/-- What stands at a window offset (R61). -/
inductive Place where
  | reg (off : Nat)
  | dbuf (a : Nat)
  | unmapped
deriving DecidableEq, Repr

/-- The window map (R61). -/
def placeOf (c : Params) (off : Offset) : Place :=
  if off.toNat < 0x40 then .reg off.toNat
  else if 0x8000 ≤ off.toNat ∧ off.toNat < 0x8000 + c.dbufBytes then .dbuf (off.toNat - 0x8000)
  else .unmapped

/-- What a read of a register returns while BUSY = 0, and at any time for ID, STATUS, INTEN, CMD, BLKSIZE, CAPS0
and CAPS1 (R23, R24, R33, R41, R42). -/
def State.regValue (s : State) : Reg → Word
  | .id => 0x49434531
  | .status => s.statusWord
  | .inten => s.intenWord
  | .cmd => 0
  | .arg0 => s.arg0
  | .arg1 => s.arg1
  | .arg2 => s.arg2
  | .result => s.result
  | .data0 => s.data0
  | .data1 => s.data1
  | .level => s.level
  | .rounds => s.rounds
  | .keysize => s.keysize
  | .blksize => 8
  | .caps0 => BitVec.ofNat 32 s.cfg.maxLevel
  | .caps1 => BitVec.ofNat 32 s.cfg.dbufBytes

/-- The registers whose read while BUSY = 1 returns any value (R83; 90_conflicts.md C11). -/
def Reg.openWhileBusy : Reg → Bool
  | .id => false
  | .status => false
  | .inten => false
  | .cmd => false
  | .arg0 => true
  | .arg1 => true
  | .arg2 => true
  | .result => true
  | .data0 => true
  | .data1 => true
  | .level => true
  | .rounds => true
  | .keysize => true
  | .blksize => false
  | .caps0 => false
  | .caps1 => false

/-- A legal 32-bit register read (R83). -/
def State.readReg (s : State) (g : Reg) : Word :=
  if s.busy && g.openWhileBusy then Config.freeWord s.draws else s.regValue g

/-- A write that is dropped because BUSY = 1: it sets OVR and nothing else (R30, R237). -/
def State.overrun (s : State) : State := { s with ovr := true }

/-- A write that is performed while BUSY = 0 and dropped while BUSY = 1 (R83). -/
def State.unlessBusy (s : State) (t : State) : State := if s.busy then s.overrun else t

/-- A legal 32-bit register write (R25, R32, R33, R34, R36, R49, R83). -/
def State.writeReg (s : State) (g : Reg) (v : Word) : State :=
  match g with
  | .id => s
  | .status => s.writeStatus v
  | .inten => s.writeInten v
  | .cmd => s.unlessBusy (s.issue v)
  | .arg0 => s.unlessBusy { s with arg0 := v }
  | .arg1 => s.unlessBusy { s with arg1 := v }
  | .arg2 => s.unlessBusy { s with arg2 := v }
  | .result => s
  | .data0 => s.unlessBusy { s with data0 := v }
  | .data1 => s.unlessBusy { s with data1 := v }
  | .level => s
  | .rounds => s
  | .keysize => s
  | .blksize => s
  | .caps0 => s
  | .caps1 => s

/-- An 8-bit DBUF read (R65, R83). -/
def State.readDbuf8 (s : State) (a : Nat) : Byte :=
  if s.busy then (Config.freeWord s.draws).setWidth 8 else s.dbufByte a

/-- A 32-bit DBUF read, big-endian (R65, R83). -/
def State.readDbuf32 (s : State) (a : Nat) : Word :=
  if s.busy then Config.freeWord s.draws
  else be32 (s.dbufByte a) (s.dbufByte (a + 1)) (s.dbufByte (a + 2)) (s.dbufByte (a + 3))

/-- The port's answer, which is all a read changes (R74). -/
def State.respond (s : State) (p : Response) : State := { s with port := p }

/-- A bus error on a read: an error response with unspecified data, and no state change (R69, R236). -/
def State.readFault (s : State) : State := s.respond (.readError (Config.freeWord s.draws))

/-- A bus error on a write (R69, R236). -/
def State.writeFault (s : State) : State := s.respond .writeError

/-- An 8-bit read: legal at any DBUF offset only (R64, R65). -/
def State.read8 (s : State) (off : Offset) : State :=
  match placeOf s.cfg off with
  | .reg _ => s.readFault
  | .dbuf a => s.respond (.data8 (s.readDbuf8 a))
  | .unmapped => s.readFault

/-- A 32-bit read: legal at aligned offsets of the registers and of DBUF (R64, R65). -/
def State.read32 (s : State) (off : Offset) : State :=
  match placeOf s.cfg off with
  | .reg k => if k % 4 = 0 then s.respond (.data32 (s.readReg (regAt (k / 4)))) else s.readFault
  | .dbuf a => if a % 4 = 0 then s.respond (.data32 (s.readDbuf32 a)) else s.readFault
  | .unmapped => s.readFault

/-- An 8-bit write (R64, R65, R83). -/
def State.write8 (s : State) (off : Offset) (v : Byte) : State :=
  match placeOf s.cfg off with
  | .reg _ => s.writeFault
  | .dbuf a => (s.unlessBusy (s.memWrite a [v])).respond .ack
  | .unmapped => s.writeFault

/-- A 32-bit write, big-endian in DBUF (R64, R65, R83). -/
def State.write32 (s : State) (off : Offset) (v : Word) : State :=
  match placeOf s.cfg off with
  | .reg k => if k % 4 = 0 then (s.writeReg (regAt (k / 4)) v).respond .ack else s.writeFault
  | .dbuf a => if a % 4 = 0 then (s.unlessBusy (s.memWrite a (bytesBE32 v))).respond .ack else s.writeFault
  | .unmapped => s.writeFault

/-- One host step (R20, R64, R65, R77). A 16-bit access is a bus error at every offset. -/
def State.hostAccess (s : State) : HostOp → State
  | .rd8 off => s.read8 off
  | .rd16 _ => s.readFault
  | .rd32 off => s.read32 off
  | .wr8 off v => s.write8 off v
  | .wr16 _ _ => s.writeFault
  | .wr32 off v => s.write32 off v

end Sys2Proof.Machine
end

