-- ==== Sys2Proof/Syntax.lean ====
section
/-! DEFINITION. The instruction set: the seven commands of spec/30_encoding.md rule R92, one constructor per row
of spec/opcode_table.json. A command word carries no operand (R90): operands are read from ARG0, ARG1, ARG2 or
DATA0, DATA1 when the command executes (R95). -/

namespace Sys2Proof

/-- The commands of ICE-CORE (R92). -/
inductive Instr where
  /-- `ice.nop`: no operation (R211). -/
  | nop
  /-- `ice.new`: construct an instance, ARG0 = level, ARG1 = key offset, ARG2 = key length (R144). -/
  | new
  /-- `ice.enc`: encrypt ARG1 bytes at DBUF offset ARG0 to offset ARG2, zero padded (R191). -/
  | enc
  /-- `ice.dec`: decrypt ARG1 bytes at DBUF offset ARG0 to offset ARG2 (R192). -/
  | dec
  /-- `ice.encb`: encrypt the block in DATA0, DATA1 in place (R179). -/
  | encb
  /-- `ice.decb`: decrypt the block in DATA0, DATA1 in place (R180). -/
  | decb
  /-- `ice.clear`: zero the key schedule (R210). -/
  | clear
deriving DecidableEq, Repr

end Sys2Proof
end

