-- ==== Sys2Proof/WellFormed.lean ====
section
/-! DEFINITION. Well-formedness: of an instruction (every command is well formed, since none carries an operand,
R90), of a command word (R96) and of the implementation parameters (R5). -/

namespace Sys2Proof

/-- A command has no field in its word that could be out of range (R90, R95). -/
def Instr.wellFormed : Instr → Bool
  | .nop => true
  | .new => true
  | .enc => true
  | .dec => true
  | .encb => true
  | .decb => true
  | .clear => true

/-- A command word that is not reserved (R96): RSVD = 0 and OPC in 0x00 .. 0x06. -/
def wordWellFormed (w : Word) : Bool :=
  w.extractLsb' 8 24 == 0 && decide ((w.extractLsb' 0 8).toNat ≤ 6)

/-- The legal values of the parameters (R5). -/
def Params.legal (c : Params) : Bool :=
  decide (c.maxLevel ≤ 65535) && decide (c.dbufBytes % 8 = 0) &&
    decide (8 ≤ c.dbufBytes) && decide (c.dbufBytes ≤ 32768)

end Sys2Proof
end

