-- ==== Sys2Proof/Decode.lean ====
section
/-! DEFINITION. Decoding a command word (spec/30_encoding.md rules R90 to R99), total on all 32-bit words, and
after it the encoder written from the same rules. There is one format, one length and no operand field. -/

namespace Sys2Proof

/-- OPC, bits 7:0 of a command word (R90, R91). -/
def opcOf (w : Word) : BitVec 8 := w.extractLsb' 0 8

/-- RSVD, bits 31:8 of a command word (R90, R91). -/
def rsvdOf (w : Word) : BitVec 24 := w.extractLsb' 8 24

/-- The opcode map of rule R92; every other operation code is reserved (R96). -/
def decodeOpc (o : BitVec 8) : Option Instr :=
  match o.toNat with
  | 0x00 => some .nop
  | 0x01 => some .new
  | 0x02 => some .enc
  | 0x03 => some .dec
  | 0x04 => some .encb
  | 0x05 => some .decb
  | 0x06 => some .clear
  | _ => none

/-- The command a word selects, or `none` for the illegal class (R92, R96, R99, R234). -/
def decode (w : Word) : Option Instr :=
  if rsvdOf w = 0 then decodeOpc (opcOf w) else none

/-- The operation code of a command (R92). -/
def opcodeOf : Instr → BitVec 8
  | .nop => 0x00
  | .new => 0x01
  | .enc => 0x02
  | .dec => 0x03
  | .encb => 0x04
  | .decb => 0x05
  | .clear => 0x06

/-- The command word of a command: RSVD = 0 above OPC (R91, R92). -/
def encode (i : Instr) : Word := (0 : BitVec 24) ++ opcodeOf i

/-- The instruction the decoder reads from a word given as a number, bit 0 the least significant bit of the
command word; bits from `nbits` up are 0. -/
def decodeTableWord (nbits w : Nat) : Option Instr :=
  decode (BitVec.ofNat 32 (w % 2 ^ nbits))

end Sys2Proof
end

