-- ==== Sys2Proof/Machine/Tables.lean ====
section
/-! DEFINITION. The constant tables (spec/10_state.md rule R45; spec/40_spbox.md rules R120, R121, R124, R125):
read-only storage fixed at design time and never written, hence definitions and not fields of `State`. -/

namespace Sys2Proof.Machine

/-- `sMod[t][row]`, the sixteen Galois moduli (R120). -/
def sModTable : List (List (BitVec 9)) :=
  [[333, 313, 505, 369], [379, 375, 319, 391], [361, 445, 451, 397], [397, 425, 395, 505]]

/-- `sXor[t][row]` (R121). -/
def sXorTable : List (List Byte) :=
  [[0x83, 0x85, 0x9b, 0xcd], [0xcc, 0xa7, 0xad, 0x41], [0x4b, 0x2e, 0xd4, 0x33], [0xea, 0xcb, 0x2e, 0x04]]

/-- `pBox[k]`, one single-bit mask per input bit of `perm32` (R123, R124; the values are the spec's own from
general knowledge, G1). -/
def pBoxTable : List Word :=
  [0x00000001, 0x00000080, 0x00000400, 0x00002000, 0x00080000, 0x00200000, 0x01000000, 0x40000000,
   0x00000008, 0x00000020, 0x00000100, 0x00004000, 0x00010000, 0x00800000, 0x04000000, 0x20000000,
   0x00000004, 0x00000010, 0x00000200, 0x00008000, 0x00020000, 0x00400000, 0x08000000, 0x10000000,
   0x00000002, 0x00000040, 0x00000800, 0x00001000, 0x00040000, 0x00100000, 0x02000000, 0x80000000]

/-- The bit position of `pBox[k]`, as rule R124 lists it beside the masks. -/
def pBoxDestTable : List Nat :=
  [0, 7, 10, 13, 19, 21, 24, 30, 3, 5, 8, 14, 16, 23, 26, 29,
   2, 4, 9, 15, 17, 22, 27, 28, 1, 6, 11, 12, 18, 20, 25, 31]

/-- `keyrot[16]` (R125). -/
def keyrotTable : List (BitVec 2) :=
  [0, 1, 2, 3, 2, 1, 3, 0, 1, 3, 2, 0, 3, 1, 0, 2]

def sMod (t row : Nat) : BitVec 9 := (sModTable.getD t []).getD row 0

def sXor (t row : Nat) : Byte := (sXorTable.getD t []).getD row 0

def pBox (k : Nat) : Word := pBoxTable.getD k 0

/-- `dest(k)` of rule R129. -/
def pBoxDest (k : Nat) : Nat := pBoxDestTable.getD k 0

def keyrot (i : Nat) : BitVec 2 := keyrotTable.getD i 0

end Sys2Proof.Machine
end

