-- ==== Sys2Proof/Machine/KeySchedule.lean ====
section
/-! DEFINITION. The key-schedule builder (spec/41_key_schedule.md rules R145 to R152): key-word packing, the
rotate-with-inversion step, the schedule-fill routine and the two regimes. -/

namespace Sys2Proof.Machine

/-- `kb[w]` (R37). -/
def KBW.get (kb : KBW) (w : BitVec 2) : KeyWord :=
  match w.toNat with
  | 0 => kb.w0
  | 1 => kb.w1
  | 2 => kb.w2
  | _ => kb.w3

/-- `kb[w] <- v` (R37). -/
def KBW.set (kb : KBW) (w : BitVec 2) (v : KeyWord) : KBW :=
  match w.toNat with
  | 0 => { kb with w0 := v }
  | 1 => { kb with w1 := v }
  | 2 => { kb with w2 := v }
  | _ => { kb with w3 := v }

/-- `LoadKB(b)`: `kb[3 - w] <- BE16(key[8b + 2w], key[8b + 2w + 1])` (R145). -/
def loadKB (key : List Byte) (b : Nat) : KBW where
  w3 := be16 (byteAt key (8 * b)) (byteAt key (8 * b + 1))
  w2 := be16 (byteAt key (8 * b + 2)) (byteAt key (8 * b + 3))
  w1 := be16 (byteAt key (8 * b + 4)) (byteAt key (8 * b + 5))
  w0 := be16 (byteAt key (8 * b + 6)) (byteAt key (8 * b + 7))

/-- Rotate-with-inversion: the bit shifted out re-enters inverted at bit 15 (R149). -/
def rotInv (v : KeyWord) : KeyWord :=
  (v >>> 1) ||| ((BitVec.ofBool (!v.getLsbD 0)).setWidth 16 <<< 15)

/-- `(v << 1) | bit` on a 20-bit subkey word (R148, R151). -/
def pushBit (v : SubkeyWord) (bit : Bool) : SubkeyWord :=
  (v <<< 1) ||| (BitVec.ofBool bit).setWidth 20

/-- Shift a bit into word s of a triple (R148). -/
def Subkey.push (k : Subkey) (s : Nat) (bit : Bool) : Subkey :=
  match s with
  | 0 => { k with k0 := pushBit k.k0 bit }
  | 1 => { k with k1 := pushBit k.k1 bit }
  | _ => { k with k2 := pushBit k.k2 bit }

/-- One pass of the innermost loop of `Fill`: the low bit of key word `(kr + k) & 3` into subkey word s, and that
key word stepped (R148, R149). -/
def fillBit (kr : BitVec 2) (s : Nat) (p : Subkey × KBW) (k : Nat) : Subkey × KBW :=
  (p.1.push s ((p.2.get (kr + BitVec.ofNat 2 k)).getLsbD 0),
   p.2.set (kr + BitVec.ofNat 2 k) (rotInv (p.2.get (kr + BitVec.ofNat 2 k))))

/-- The four bits of iteration j, into subkey word `j mod 3` (R148). -/
def fillIter (kr : BitVec 2) (p : Subkey × KBW) (j : Nat) : Subkey × KBW :=
  (List.range 4).foldl (fillBit kr (j % 3)) p

/-- One triple: fifteen iterations from the zero triple (R148). -/
def fillTriple (kr : BitVec 2) (kb : KBW) : Subkey × KBW :=
  (List.range 15).foldl (fillIter kr) (⟨0, 0, 0⟩, kb)

/-- `Fill(n, ro)`: the triples `KS[n] .. KS[n+7]`, with KBW as the last triple left it (R148). -/
def fill (n ro : Nat) (p : List Subkey × KBW) : List Subkey × KBW :=
  (List.range 8).foldl
    (fun q i => (q.1.set (n + i) (fillTriple (keyrot (ro + i)) q.2).1, (fillTriple (keyrot (ro + i)) q.2).2)) p

/-- The thin regime (R146). -/
def buildThin (key : List Byte) (ks : List Subkey) : List Subkey × KBW :=
  fill 0 0 (ks, loadKB key 0)

/-- Key block b of the multi-level regime: a forward fill, then the mirrored fill from the key words the first
left (R147, R150). -/
def buildBlock (key : List Byte) (rounds : Nat) (p : List Subkey × KBW) (b : Nat) : List Subkey × KBW :=
  fill (rounds - 8 - 8 * b) 8 (fill (8 * b) 0 (p.1, loadKB key b))

/-- The multi-level regime: key blocks in ascending order (R147). -/
def buildMulti (key : List Byte) (lv rounds : Nat) (p : List Subkey × KBW) : List Subkey × KBW :=
  (List.range lv).foldl (buildBlock key rounds) p

end Sys2Proof.Machine
end

