-- ==== Sys2Proof/Machine/Operands.lean ====
section
/-! DEFINITION. Operand assembly (spec/30_encoding.md rules R93 to R95) and the checks on operands: the level
decode (spec/41_key_schedule.md rule R141), the range check (spec/20_memory.md rule R68) and the padded length
(spec/43_multiblock.md rule R190). An offset or
length operand is the unsigned value `toNat` of its ARG register, neither scaled nor shifted (R94). -/

namespace Sys2Proof.Machine

/-- What a level selects (R2, R141): the value LEVEL shows, the round count and the key size in bytes. -/
structure LevelSel where
  lv : Nat
  rounds : Nat
  size : Nat
deriving DecidableEq, Repr

/-- `decodeLevel(ARG0)`, the operand read as two's complement (R93, R141); `none` is `E_LEVEL`. -/
def decodeLevel (c : Params) (arg0 : Word) : Option LevelSel :=
  if arg0.toInt < 1 then some ⟨0, 8, 8⟩
  else if arg0.toInt ≤ (c.maxLevel : Int) then
    some ⟨arg0.toInt.toNat, 16 * arg0.toInt.toNat, 8 * arg0.toInt.toNat⟩
  else none

/-- The range check `a + n ≤ DBUF_BYTES` over unbounded integers (R68). -/
def inRange (c : Params) (a n : Nat) : Bool := decide (a + n ≤ c.dbufBytes)

/-- `P(n) = 8 × ceil(n / 8)` (R190). -/
def paddedLen (n : Nat) : Nat := 8 * ((n + 7) / 8)

/-- `Q = 8 × floor(n / 8)`, the whole blocks of n bytes (R192). -/
def wholeLen (n : Nat) : Nat := 8 * (n / 8)

/-- An 8-byte block as its two halves L and R (R174). -/
structure Halves where
  l : Word
  r : Word
deriving DecidableEq, Repr

/-- Block load: both halves big-endian (R174). -/
def loadBlock (b : List Byte) : Halves where
  l := be32 (byteAt b 0) (byteAt b 1) (byteAt b 2) (byteAt b 3)
  r := be32 (byteAt b 4) (byteAt b 5) (byteAt b 6) (byteAt b 7)

/-- Block store: `bytesBE32(R) ‖ bytesBE32(L)`, the halves swapped (R175; 90_conflicts.md C2). -/
def storeBlock (h : Halves) : List Byte := bytesBE32 h.r ++ bytesBE32 h.l

end Sys2Proof.Machine
end

