-- ==== Sys2Proof/Machine/SPBox.lean ====
section
/-! DEFINITION. The SP-box builder (spec/40_spbox.md): Galois-field arithmetic, the bit-permutation network, the
SP-box entry function and the build step that NEW runs. -/

namespace Sys2Proof.Machine

/-- The shift-and-add loop of `gfMult` (R126). The multiplicand `a` is a 9-bit intermediate. The loop runs while
`b ≠ 0`, at most 8 times, which the first argument counts. -/
def gfMultLoop (m : BitVec 9) : Nat → BitVec 9 → Byte → BitVec 9 → BitVec 9
  | 0, _, _, res => res
  | n + 1, a, b, res =>
    if b = 0 then res
    else
      gfMultLoop m n
        (if (a <<< 1).getLsbD 8 then (a <<< 1) ^^^ m else a <<< 1)
        (b >>> 1)
        (if b.getLsbD 0 then res ^^^ a else res)

/-- `gfMult(a, b, m)`: the carry-less product of a and b modulo m (R126). -/
def gfMult (a b : Byte) (m : BitVec 9) : Byte :=
  (gfMultLoop m 8 (a.setWidth 9) b 0).setWidth 8

/-- `gfExp7(b, m)`: b to the seventh in GF(2^8) modulo m (R128; 90_conflicts.md C9). -/
def gfExp7 (b : Byte) (m : BitVec 9) : Byte :=
  if b = 0 then 0
  else gfMult b (gfMult (gfMult b (gfMult b b m) m) (gfMult b (gfMult b b m) m) m) m

/-- `perm32(x)`: for each set bit k of x, OR in `pBox[k]` (R129). -/
def perm32 (x : Word) : Word :=
  (List.range 32).foldl (fun res k => if x.getLsbD k then res ||| pBox k else res) 0

/-- `col` of an SP-box index (R130). -/
def spCol (i : Nat) : Nat := (i >>> 1) &&& 0xff

/-- `row` of an SP-box index (R130). -/
def spRow (i : Nat) : Nat := (i &&& 1) ||| ((i &&& 0x200) >>> 8)

/-- `spEntry(t, i)` (R131). -/
def spEntry (t i : Nat) : Word :=
  perm32
    ((gfExp7 (BitVec.ofNat 8 (spCol i) ^^^ sXor t (spRow i)) (sMod t (spRow i))).setWidth 32 <<< (24 - 8 * t))

/-- The contents the build step gives SP: `SP[t][i] = spEntry(t, i)` (R132, R133). -/
def spTables : List (List Word) :=
  (List.range 4).map (fun t => (List.range 1024).map (spEntry t))

/-- `SPBuild()` (R132). -/
def State.spBuild (s : State) : State := { s with sp := spTables, spbv := true }

/-- `SP[t][i]` (R9, R44). -/
def spAt (sp : List (List Word)) (t i : Nat) : Word := (sp.getD t []).getD i 0

end Sys2Proof.Machine
end

