-- ==== Sys2Proof/Machine/Construct.lean ====
section
/-! DEFINITION. NEW, construction of an instance (spec/41_key_schedule.md rules R141 to R144). -/

namespace Sys2Proof.Machine

/-- `keyByte(j)`: a supplied byte, or 0x00 beyond the supplied length (R143). -/
def State.keyByte (s : State) (j : Nat) : Byte :=
  if j < s.arg2.toNat then s.dbufByte (s.arg1.toNat + j) else 0

/-- The key: `keyByte(j)` for j in [0, size) (R143, R144). -/
def State.key (s : State) (size : Nat) : List Byte := (List.range size).map s.keyByte

/-- The checks of NEW, in the order of rule R142, and the level it selects where all pass. -/
def State.newCheck (s : State) : Except ErrCode LevelSel :=
  match decodeLevel s.cfg s.arg0 with
  | none => .error .level
  | some sel =>
    if ¬ inRange s.cfg s.arg1.toNat s.arg2.toNat then .error .range
    else if s.arg2.toNat < sel.size ∧ s.cfg.shortKey = .reject then .error .keyLen
    else .ok sel

/-- The schedule and key words NEW leaves, thin or multi-level (R144, R146, R147). -/
def State.newSchedule (s : State) (sel : LevelSel) : List Subkey × KBW :=
  if sel.rounds = 8 then buildThin (s.key sel.size) s.ks
  else buildMulti (s.key sel.size) sel.lv sel.rounds (s.ks, s.kbw)

/-- The SP-box build step, run only while SPBV = 0 (R144, R27). -/
def State.ensureSP (s : State) : State := if s.spbv then s else s.spBuild

/-- What a successful NEW writes before it completes (R144). -/
def State.construct (s : State) (sel : LevelSel) : State :=
  { s.ensureSP with
    ks := (s.newSchedule sel).1
    kbw := (s.newSchedule sel).2
    level := BitVec.ofNat 32 sel.lv
    rounds := BitVec.ofNat 32 sel.rounds
    keysize := BitVec.ofNat 32 sel.size
    keyv := true }

/-- NEW (R144). -/
def execNew (s : State) : Result :=
  match s.newCheck with
  | .error e => .next (s.failWith e)
  | .ok sel => .next (s.construct sel).succeed

end Sys2Proof.Machine
end

