-- ==== Sys2Proof/Machine/Lifecycle.lean ====
section
/-! DEFINITION. NOP and CLEAR (spec/44_lifecycle.md). -/

namespace Sys2Proof.Machine

/-- NOP: complete with ERR = 0x00 (R211). -/
def execNop (s : State) : Result := .next s.succeed

/-- CLEAR: every KS entry to zero, then complete; legal with KEYV = 0 as well (R210, R216). -/
def execClear (s : State) : Result :=
  .next { s with ks := s.ks.map (fun _ => ⟨0, 0, 0⟩) }.succeed

end Sys2Proof.Machine
end

