-- ==== Sys2Proof/Machine/Block.lean ====
section
/-! DEFINITION. The round function and the block cipher core (spec/42_round_block.md rules R170 to R177). -/

namespace Sys2Proof.Machine

/-- `tl` of the expansion (R170). -/
def expandL (p : Word) : SubkeyWord :=
  (((p >>> 16) &&& 0x3ff) ||| (((p >>> 14) ||| (p <<< 18)) &&& 0xffc00)).setWidth 20

/-- `tr` of the expansion (R170). -/
def expandR (p : Word) : SubkeyWord :=
  ((p &&& 0x3ff) ||| ((p <<< 2) &&& 0xffc00)).setWidth 20

/-- `al` before the key is mixed in: tl and tr swapped where sk2 is 1, left part (R171). -/
def saltL (p : Word) (sk : Subkey) : SubkeyWord :=
  (sk.k2 &&& (expandL p ^^^ expandR p)) ^^^ expandL p

/-- `ar` before the key is mixed in (R171). -/
def saltR (p : Word) (sk : Subkey) : SubkeyWord :=
  (sk.k2 &&& (expandL p ^^^ expandR p)) ^^^ expandR p

/-- SP-box combination of al and ar; the high index is the logical shift (R172; 90_conflicts.md C3). -/
def spCombine (sp : List (List Word)) (al ar : SubkeyWord) : Word :=
  spAt sp 0 (al >>> 10).toNat ||| spAt sp 1 (al &&& 0x3ff).toNat |||
    spAt sp 2 (ar >>> 10).toNat ||| spAt sp 3 (ar &&& 0x3ff).toNat

/-- The round function `F(p, sk)` (R173). -/
def roundF (sp : List (List Word)) (p : Word) (sk : Subkey) : Word :=
  spCombine sp (saltL p sk ^^^ sk.k0) (saltR p sk ^^^ sk.k1)

/-- `KS[i]` (R9, R43). -/
def subkeyAt (ks : List Subkey) (i : Nat) : Subkey := ks.getD i ⟨0, 0, 0⟩

/-- One iteration of a block traversal with the subkeys of indices i and j:
`L <- L ^ F(R, KS[i])`, then `R <- R ^ F(L, KS[j])` (R176, R177). -/
def roundPair (sp : List (List Word)) (ks : List Subkey) (i j : Nat) (h : Halves) : Halves where
  l := h.l ^^^ roundF sp h.r (subkeyAt ks i)
  r := h.r ^^^ roundF sp (h.l ^^^ roundF sp h.r (subkeyAt ks i)) (subkeyAt ks j)

/-- The halves after the rounds of `EncryptBlock`: ROUNDS/2 iterations, i = 0, 2, …, ROUNDS − 2 (R176). -/
def encryptHalves (sp : List (List Word)) (ks : List Subkey) (rounds : Nat) (h : Halves) : Halves :=
  (List.range (rounds / 2)).foldl (fun h k => roundPair sp ks (2 * k) (2 * k + 1) h) h

/-- The halves after the rounds of `DecryptBlock`: ROUNDS/2 iterations, i = ROUNDS − 1, ROUNDS − 3, …, 1 (R177). -/
def decryptHalves (sp : List (List Word)) (ks : List Subkey) (rounds : Nat) (h : Halves) : Halves :=
  (List.range (rounds / 2)).foldl
    (fun h k => roundPair sp ks (rounds - 1 - 2 * k) (rounds - 1 - 2 * k - 1) h) h

/-- The rounds of the current instance over SP, `KS[0 .. ROUNDS−1]` (R176). -/
def State.encHalves (s : State) (h : Halves) : Halves := encryptHalves s.sp s.ks s.rounds.toNat h

/-- The rounds of the current instance, downward (R177). -/
def State.decHalves (s : State) (h : Halves) : Halves := decryptHalves s.sp s.ks s.rounds.toNat h

/-- `EncryptBlock(B)` of the current instance (R174, R175, R176). -/
def State.encryptBlock (s : State) (b : List Byte) : List Byte := storeBlock (s.encHalves (loadBlock b))

/-- `DecryptBlock(B)` of the current instance (R174, R175, R177). -/
def State.decryptBlock (s : State) (b : List Byte) : List Byte := storeBlock (s.decHalves (loadBlock b))

/-- What a block command leaves in the working registers L and R (R51). -/
def State.setHalves (s : State) (h : Halves) : State := { s with l := h.l, r := h.r }

end Sys2Proof.Machine
end

