-- ==== Sys2Proof/Machine/MultiBlock.lean ====
section
/-! DEFINITION. ENC and DEC, the multi-block driver (spec/43_multiblock.md rules R190 to R195). -/

namespace Sys2Proof.Machine

/-- Block k of ENC's input: the bytes supplied, then zeros, never DBUF contents beyond the input (R190, R191). -/
def State.encInput (s : State) (src n k : Nat) : List Byte :=
  s.memRead (src + 8 * k) (min 8 (n - 8 * k)) ++ zeros (8 - min 8 (n - 8 * k))

/-- Block k of DEC's input (R192). -/
def State.decInput (s : State) (src k : Nat) : List Byte := s.memRead (src + 8 * k) 8

/-- Write the output of block k and leave L, R as the block core left them (R175, R193). -/
def State.putBlock (s : State) (dst k : Nat) (h : Halves) : State :=
  (s.memWrite (dst + 8 * k) (storeBlock h)).setHalves h

/-- Block k of ENC: its input is read completely before its output is written (R191, R193). -/
def encStep (src n dst : Nat) (s : State) (k : Nat) : State :=
  s.putBlock dst k (s.encHalves (loadBlock (s.encInput src n k)))

/-- Block k of DEC (R192, R193). -/
def decStep (src dst : Nat) (s : State) (k : Nat) : State :=
  s.putBlock dst k (s.decHalves (loadBlock (s.decInput src k)))

/-- The checks of ENC in the order of rule R235; `none` where all pass (R191). -/
def State.encCheck (s : State) : Option ErrCode :=
  if ¬ s.keyv then some .noKey
  else if ¬ inRange s.cfg s.arg0.toNat s.arg1.toNat then some .range
  else if ¬ inRange s.cfg s.arg2.toNat (paddedLen s.arg1.toNat) then some .range
  else none

/-- The checks of DEC in the order of rule R235; `none` where all pass (R192). -/
def State.decCheck (s : State) : Option ErrCode :=
  if ¬ s.keyv then some .noKey
  else if s.arg1.toNat % 8 ≠ 0 ∧ s.cfg.decPartial = .reject then some .inLen
  else if ¬ inRange s.cfg s.arg0.toNat s.arg1.toNat then some .range
  else if ¬ inRange s.cfg s.arg2.toNat (wholeLen s.arg1.toNat) then some .range
  else none

/-- All blocks of ENC in ascending order, then RESULT (R191, R193). -/
def State.encRun (s : State) : State :=
  { (List.range (paddedLen s.arg1.toNat / 8)).foldl
      (encStep s.arg0.toNat s.arg1.toNat s.arg2.toNat) s with
    result := BitVec.ofNat 32 (paddedLen s.arg1.toNat) }

/-- All blocks of DEC in ascending order, then RESULT (R192, R193). -/
def State.decRun (s : State) : State :=
  { (List.range (wholeLen s.arg1.toNat / 8)).foldl
      (decStep s.arg0.toNat s.arg2.toNat) s with
    result := BitVec.ofNat 32 (wholeLen s.arg1.toNat) }

/-- ENC (R191). -/
def execEnc (s : State) : Result :=
  match s.encCheck with
  | some e => .next (s.failWith e)
  | none => .next s.encRun.succeed

/-- DEC (R192). -/
def execDec (s : State) : Result :=
  match s.decCheck with
  | some e => .next (s.failWith e)
  | none => .next s.decRun.succeed

end Sys2Proof.Machine
end

