-- ==== Sys2Proof/Machine/SingleBlock.lean ====
section
/-! DEFINITION. ENCB and DECB, one block in place in DATA0/DATA1 (spec/42_round_block.md rules R179, R180). -/

namespace Sys2Proof.Machine

/-- The block the single-block commands read: L = DATA0, R = DATA1 (R36, R179). -/
def State.dataHalves (s : State) : Halves := ⟨s.data0, s.data1⟩

/-- The block written back: DATA0 receives the final R and DATA1 the final L (R179). -/
def State.putHalves (s : State) (h : Halves) : State :=
  { s.setHalves h with data0 := h.r, data1 := h.l }

/-- ENCB (R179). -/
def execEncb (s : State) : Result :=
  if s.keyv then .next (s.putHalves (s.encHalves s.dataHalves)).succeed else .next (s.failWith .noKey)

/-- DECB (R180). -/
def execDecb (s : State) : Result :=
  if s.keyv then .next (s.putHalves (s.decHalves s.dataHalves)).succeed else .next (s.failWith .noKey)

end Sys2Proof.Machine
end

