-- ==== Sys2Proof/Machine/Engine.lean ====
section
/-! DEFINITION. The engine's turn (spec/10_state.md rule R22; spec/60_exceptions.md rule R234): enabled only while
CSTATE = BUSY, it runs the whole command in PEND. -/

namespace Sys2Proof.Machine

/-- One turn of the engine: nothing while idle; the command in PEND while busy, or the failed completion of a
reserved word, checked before anything else. -/
def engineTurn (s : State) : Host.Outcome State Fault Refusal :=
  match s.cstate with
  | .idle => .next s
  | .busy =>
    match decode s.pend with
    | some i => exec i s
    | none => .next s.failIllegal

/-- The state in which command word `w` is issued and the engine's turn comes next. -/
def State.withPending (s : State) (w : Word) : State :=
  { s.issue w with events := .engine :: s.events }

end Sys2Proof.Machine
end

