-- ==== Sys2Proof/Machine/Reset.lean ====
section
/-! DEFINITION. The reset input (spec/70_reset_and_hazards.md rules R260 to R262), idle and while a command is
running. -/

namespace Sys2Proof.Machine

/-- The DBUF region an issued ENC or DEC would write, as address and length: empty where the command would fail,
and for every other command (R191, R192, R232). -/
def State.pendingOutput (s : State) : Nat × Nat :=
  match decode s.pend with
  | some .enc => if s.encCheck.isNone then (s.arg2.toNat, paddedLen s.arg1.toNat) else (0, 0)
  | some .dec => if s.decCheck.isNone then (s.arg2.toNat, wholeLen s.arg1.toNat) else (0, 0)
  | _ => (0, 0)

/-- What DBUF would hold at an address after the issued command. -/
def State.pendingByte (s : State) (a : Nat) : Byte :=
  match decode s.pend with
  | some .enc => s.encRun.dbufByte a
  | some .dec => s.decRun.dbufByte a
  | _ => s.dbufByte a

/-- A byte of the abandoned command's output region after reset: its old or its new value (R262; U11). -/
def State.abandonedByte (s : State) (a : Nat) : Byte :=
  if Config.keepsOld s.draws a then s.dbufByte a else s.pendingByte a

/-- DBUF after reset: unspecified (R48), but for the output region of an abandoned command (R262). -/
def State.resetDbuf (s : State) : Memory :=
  if s.busy then
    Memory.writeBytes [] s.pendingOutput.1
      ((List.range s.pendingOutput.2).map (fun k => s.abandonedByte (s.pendingOutput.1 + k)))
  else []

/-- Reset asserted (R260, R262): every piece of state at its reset value, and no completion of a running
command. -/
def State.resetEvent (s : State) : State :=
  { State.resetWith s.cfg s.events s.draws with dbuf := s.resetDbuf }

end Sys2Proof.Machine
end

