-- ==== Sys2Proof/Machine/Step.lean ====
section
/-! DEFINITION. One step of ICE-CORE: the next event of the schedule (spec/20_memory.md rule R77). With no event
left the engine takes its turn, so an issued command is always eventually executed (spec/70_reset_and_hazards.md
rule R270), and an idle machine holds its state (spec/60_exceptions.md rule R249). -/

namespace Sys2Proof.Machine

def step (s : State) : Host.Outcome State Fault Refusal :=
  match s.events with
  | [] => engineTurn s.tick
  | .engine :: _ => engineTurn s.tick
  | .host op :: _ => .next (s.tick.hostAccess op)
  | .reset :: _ => .next s.tick.resetEvent

/-- The machine fetches nothing: a command comes from a CMD write (R22, R81). This is the state in which the word
`w` has been issued and the engine's turn is the next event. -/
def State.withFetchWord (s : State) (nbits w : Nat) : State :=
  s.withPending (BitVec.ofNat 32 (w % 2 ^ nbits))

end Sys2Proof.Machine
end

