-- ==== Sys2Proof/Safety.lean ====
section
/-! DEFINITION. What a good state of ICE-CORE is: the instance invariant of spec/10_state.md rule R46 and the
facts about storage that every step keeps. -/

namespace Sys2Proof.Machine

/-- LEVEL, ROUNDS and KEYSIZE as a successful NEW leaves them (R46, R38, R39, R40). -/
def State.sizesAgree (s : State) : Prop :=
  (s.level = 0 ∧ s.rounds = 8 ∧ s.keysize = 8) ∨
    (1 ≤ s.level.toNat ∧ s.level.toNat ≤ s.cfg.maxLevel ∧
      s.rounds.toNat = 16 * s.level.toNat ∧ s.keysize.toNat = 8 * s.level.toNat)

/-- The invariant of ICE-CORE. -/
structure State.Inv (s : State) : Prop where
  /-- The parameters are legal (R5). -/
  params : s.cfg.legal = true
  /-- DBUF is in its canonical form. -/
  dbufSorted : s.dbuf.wf
  /-- DBUF has DBUF_BYTES bytes (R63). -/
  dbufBound : ∀ c ∈ s.dbuf, c.1 < s.cfg.dbufBytes
  /-- KS has KS_ENTRIES triples (R43). -/
  ksSize : s.ks.length = s.cfg.ksEntries
  /-- SP has four tables of 1024 words (R44). -/
  spSize : s.sp.length = 4 ∧ ∀ t ∈ s.sp, t.length = 1024
  /-- Error codes 0x07 to 0xFF are never produced (R231). -/
  errRange : s.err.toNat ≤ 6
  /-- SPBV says that SP holds the built tables (R25, R27, R132). -/
  spBuilt : s.spbv = true → s.sp = spTables
  /-- The instance invariant (R46). -/
  keyed : s.keyv = true → s.spbv = true ∧ s.sizesAgree
  /-- No instance: LEVEL, ROUNDS and KEYSIZE are still 0 (R39, R213, R261). -/
  unkeyed : s.keyv = false → s.level = 0 ∧ s.rounds = 0 ∧ s.keysize = 0

end Sys2Proof.Machine
end

