-- ==== Sys2Proof/Certificates/Slice0/Obligations.lean ====
section
/-! DEFINITION. The statements for the provers, from the numbered rules of spec/. A `State` carries the
implementation parameters (`cfg`), so a statement over all states is one over all implementations; a free value is
drawn with `draws`, over which every statement quantifies. -/

open Sys2Proof Sys2Proof.Machine

namespace Sys2Proof.Stated

/-- The completion of rules R232 and R233 with an error code, written out: ERR, DONE, BUSY and nothing else. -/
def completedAs (s : State) (code : BitVec 8) : State :=
  { s with err := code, done := true, cstate := .idle }

/-- The engine's turn is next: no host step and no reset stands before it. -/
def engineNext (s : State) : Prop := s.events = [] ∨ s.events.head? = some .engine

/-- The key size a level operand selects (R2, R141). -/
def keySizeOf (arg0 : Word) : Nat := if arg0.toInt < 1 then 8 else 8 * arg0.toInt.toNat

/-- Word j of a subkey triple. -/
def subkeyWord (k : Subkey) (j : Nat) : SubkeyWord :=
  match j with
  | 0 => k.k0
  | 1 => k.k1
  | _ => k.k2

/-- The bit that fill pass `pass` of a key block shifts into word `sw` of its triple `i` as bit `k` of the group
`q`, from the key words as loaded: key word `(keyrot + k) & 3` has by then been stepped once in each of the
`120·pass + 15·i + 3·q + sw` iterations before, and a step moves every bit down one place and brings bit 0 back
inverted (R148, R149, R150). -/
def scheduleBit (kb : KBW) (pass i sw q k : Nat) : Bool :=
  ((kb.get (keyrot (8 * pass + i) + BitVec.ofNat 2 k)).getLsbD ((120 * pass + 15 * i + 3 * q + sw) % 16)) ^^
    decide ((120 * pass + 15 * i + 3 * q + sw) / 16 % 2 = 1)

/-- A subkey triple is triple `i` of fill pass `pass` from loaded key words: every one of its 60 bits. -/
def isTriple (kb : KBW) (pass i : Nat) (t : Subkey) : Prop :=
  ∀ sw < 3, ∀ q < 5, ∀ k < 4, (subkeyWord t sw).getLsbD (19 - 4 * q - k) = scheduleBit kb pass i sw q k

/-- The key bytes of rule R143: supplied ones from DBUF, 0x00 beyond the supplied length. -/
def keyBytes (s : State) (size : Nat) : List Byte :=
  (List.range size).map (fun j => if j < s.arg2.toNat then s.dbufByte (s.arg1.toNat + j) else 0)

/-- Block k of an n-byte input that DBUF contents `m` hold at `src`, zero padded (R190, R191). -/
def inputBlock (m : Nat → Byte) (src n k : Nat) : List Byte :=
  (List.range 8).map (fun j => if 8 * k + j < n then m (src + 8 * k + j) else 0)

/-- DBUF contents `m` with an 8-byte block written at `a` (R67). -/
def storeAt (m : Nat → Byte) (a : Nat) (b : List Byte) : Nat → Byte :=
  fun x => if a ≤ x ∧ x < a + 8 then byteAt b (x - a) else m x

/-- A host access that the register window does not admit (R61, R64, R65, R69). -/
def illegalAccess (c : Params) : HostOp → Prop
  | .rd8 off => ¬ (0x8000 ≤ off.toNat ∧ off.toNat < 0x8000 + c.dbufBytes)
  | .wr8 off _ => ¬ (0x8000 ≤ off.toNat ∧ off.toNat < 0x8000 + c.dbufBytes)
  | .rd16 _ => True
  | .wr16 _ _ => True
  | .rd32 off =>
    ¬ ((off.toNat < 0x40 ∨ (0x8000 ≤ off.toNat ∧ off.toNat < 0x8000 + c.dbufBytes)) ∧ off.toNat % 4 = 0)
  | .wr32 off _ =>
    ¬ ((off.toNat < 0x40 ∨ (0x8000 ≤ off.toNat ∧ off.toNat < 0x8000 + c.dbufBytes)) ∧ off.toNat % 4 = 0)

/-- A read access (R101). -/
def isRead : HostOp → Bool
  | .rd8 _ => true
  | .rd16 _ => true
  | .rd32 _ => true
  | .wr8 _ _ => false
  | .wr16 _ _ => false
  | .wr32 _ _ => false

end Sys2Proof.Stated

open Sys2Proof.Stated

/-! ### Encoding and the step -/

/-- R92: sanity, the command words of the opcode map written out, and two reserved words of
spec/95_test_vectors.md V9.3 and V9.4. -/
def Obligations.WrittenCommandWordsDecode : Prop :=
  decode 0x00000000 = some .nop ∧ decode 0x00000001 = some .new ∧ decode 0x00000002 = some .enc ∧
  decode 0x00000003 = some .dec ∧ decode 0x00000004 = some .encb ∧ decode 0x00000005 = some .decb ∧
  decode 0x00000006 = some .clear ∧ decode 0x00000107 = none ∧ decode 0x00000007 = none

/-- R90, R91, R92: every command decodes from its own word, which has RSVD = 0 and the operation code of R92. -/
def Obligations.DecodeOfEncodeIsTheCommand : Prop :=
  ∀ i : Instr, i.wellFormed = true →
    decode (encode i) = some i ∧ (encode i).extractLsb' 8 24 = 0 ∧ (encode i).extractLsb' 0 8 = opcodeOf i

/-- R92, R99: over all 2^32 words, the decoder gives exactly the seven commands, each from exactly its own word. -/
def Obligations.DecodeIsTheOpcodeMap : Prop :=
  ∀ w : Word, decode w =
    if w = 0x00000000 then some .nop
    else if w = 0x00000001 then some .new
    else if w = 0x00000002 then some .enc
    else if w = 0x00000003 then some .dec
    else if w = 0x00000004 then some .encb
    else if w = 0x00000005 then some .decb
    else if w = 0x00000006 then some .clear
    else none

/-- R96, R234: a word with RSVD ≠ 0 or OPC ≥ 0x07 fails with E_ILLEGAL and changes nothing but ERR, DONE and the
BUSY handshake. -/
def Obligations.ReservedWordFailsIllegal : Prop :=
  ∀ s : State, s.cstate = .busy → engineNext s →
    (s.pend.extractLsb' 8 24 ≠ 0 ∨ 0x07 ≤ (s.pend.extractLsb' 0 8).toNat) →
    step s = .next (completedAs s.tick 0x01)

/-- R22: the engine's turn, taken while BUSY, runs the command in PEND. -/
def Obligations.StepRunsTheDecodedCommand : Prop :=
  ∀ (s : State) (i : Instr), i.wellFormed = true → s.cstate = .busy → engineNext s → decode s.pend = some i →
    step s = exec i s.tick

/-- R20, R22, R77: a host event is one host access; the engine's turn does nothing while idle. The schedule of events
is the model's choice (log entry 4). -/
def Obligations.StepTakesTheNextEvent : Prop :=
  (∀ (s : State) (op : HostOp), s.events.head? = some (.host op) → step s = .next (s.tick.hostAccess op)) ∧
  (∀ s : State, s.cstate = .idle → engineNext s → step s = .next s.tick)

/-- R230, R231, R232, R233: each command ends in a completion, with an error code of the table. That a step answers a
next state from every state, a bus error among them (R69, R236), and never a fault outcome is the model's reading
(log entry 7). -/
def Obligations.EveryCommandCompletes : Prop :=
  (∀ (i : Instr) (s : State), ∃ t : State, exec i s = .next t ∧
    t.cstate = .idle ∧ t.done = true ∧ t.err.toNat ≤ 6) ∧
  ∀ s : State, ∃ t : State, step s = .next t

/-- R270: an issued command always completes, however the host's steps are interleaved: within one step more than
the schedule is long the engine is idle, and unless reset is asserted DONE is set. That an empty schedule gives the
engine its turn is the model's choice (log entry 4). -/
def Obligations.IssuedCommandIsEventuallyExecuted : Prop :=
  ∀ s : State, s.cstate = .busy →
    ∃ k ≤ s.events.length + 1, ∃ t : State, Sys2Proof.core.run k s = .next t ∧ t.cstate = .idle ∧
      (Event.reset ∉ s.events → t.done = true)

/-! ### Frames and whole-machine rules -/

/-- R50, R30: no command writes ARG0, ARG1, ARG2, INTEN or OVR; nor the parameters, the port, the schedule or the draw
counter. That PEND keeps the last word issued, which the spec leaves open while IDLE (U10), is the model's choice (log
entry 10). -/
def Obligations.NoCommandWritesOperandsOrInten : Prop :=
  ∀ (i : Instr) (s t : State), exec i s = .next t →
    t.arg0 = s.arg0 ∧ t.arg1 = s.arg1 ∧ t.arg2 = s.arg2 ∧ t.doneie = s.doneie ∧ t.pend = s.pend ∧
    t.ovr = s.ovr ∧ t.cfg = s.cfg ∧ t.port = s.port ∧ t.events = s.events ∧ t.draws = s.draws

/-- R50, R84: which commands write the rest of the state; every byte of DBUF is unchanged but under ENC and DEC. -/
def Obligations.OnlyTheNamedCommandsWrite : Prop :=
  ∀ (i : Instr) (s t : State), exec i s = .next t →
    (i ≠ .new → t.spbv = s.spbv ∧ t.keyv = s.keyv ∧ t.level = s.level ∧ t.rounds = s.rounds ∧
      t.keysize = s.keysize ∧ t.kbw = s.kbw ∧ t.sp = s.sp) ∧
    (i ≠ .new → i ≠ .clear → t.ks = s.ks) ∧
    (i ≠ .encb → i ≠ .decb → t.data0 = s.data0 ∧ t.data1 = s.data1) ∧
    (i ≠ .enc → i ≠ .dec → t.result = s.result ∧ t.dbuf = s.dbuf ∧ ∀ a, t.dbufByte a = s.dbufByte a) ∧
    (i ≠ .enc → i ≠ .dec → i ≠ .encb → i ≠ .decb → t.l = s.l ∧ t.r = s.r)

/-- R191, R192: the bytes ENC and DEC store to: P(n) bytes, or whole blocks, at ARG2; every other byte reads as
before. -/
def Obligations.EncAndDecStoreOnlyTheirOutput : Prop :=
  (∀ (s t : State) (a : Nat), exec .enc s = .next t →
    (a < s.arg2.toNat ∨ s.arg2.toNat + paddedLen s.arg1.toNat ≤ a) → t.dbufByte a = s.dbufByte a) ∧
  (∀ (s t : State) (a : Nat), exec .dec s = .next t →
    (a < s.arg2.toNat ∨ s.arg2.toNat + wholeLen s.arg1.toNat ≤ a) → t.dbufByte a = s.dbufByte a)

/-- R232: a failed command has written ERR, DONE and the BUSY handshake, and nothing else. -/
def Obligations.FailedCommandWritesNothingElse : Prop :=
  ∀ (i : Instr) (s t : State), exec i s = .next t → t.err ≠ 0x00 → t = completedAs s t.err

/-- R95: a command never reads an operand register the table marks with a dash. -/
def Obligations.CommandsIgnoreUnmarkedOperands : Prop :=
  (∀ (i : Instr) (s t : State) (a0 a1 a2 : Word), (i = .nop ∨ i = .clear ∨ i = .encb ∨ i = .decb) →
    exec i s = .next t →
    exec i { s with arg0 := a0, arg1 := a1, arg2 := a2 } = .next { t with arg0 := a0, arg1 := a1, arg2 := a2 }) ∧
  (∀ (i : Instr) (s t : State) (d0 d1 : Word),
    (i = .nop ∨ i = .clear ∨ i = .new ∨ i = .enc ∨ i = .dec) → exec i s = .next t →
    exec i { s with data0 := d0, data1 := d1 } = .next { t with data0 := d0, data1 := d1 })

/-- R27, R28: SPBV and KEYV, once set, stay set under every step but a reset. -/
def Obligations.ValidFlagsClearOnlyByReset : Prop :=
  ∀ s t : State, step s = .next t → s.events.head? ≠ some .reset →
    (s.spbv = true → t.spbv = true) ∧ (s.keyv = true → t.keyv = true)

/-- R29: DONE is cleared only by a host write of 1 to bit 3 of STATUS or by reset. -/
def Obligations.DoneClearsOnlyByWriteOrReset : Prop :=
  ∀ s t : State, step s = .next t → s.done = true → t.done = false →
    s.events.head? = some .reset ∨
      ∃ v : Word, s.events.head? = some (.host (.wr32 0x004 v)) ∧ v.getLsbD 3 = true

/-- R30, R237: OVR is set only by a host step taken while BUSY = 1, and cleared only by a host write of 1 to bit 4
of STATUS or by reset. -/
def Obligations.OverrunSetAndClearedOnlyByTheHost : Prop :=
  (∀ s t : State, step s = .next t → s.ovr = false → t.ovr = true →
    s.cstate = .busy ∧ ∃ op : HostOp, s.events.head? = some (.host op) ∧ isRead op = false) ∧
  (∀ s t : State, step s = .next t → s.ovr = true → t.ovr = false →
    s.events.head? = some .reset ∨
      ∃ v : Word, s.events.head? = some (.host (.wr32 0x004 v)) ∧ v.getLsbD 4 = true)

/-- R5, R21: the implementation parameters are not state: no step changes them. -/
def Obligations.StepKeepsTheParameters : Prop :=
  ∀ s t : State, step s = .next t → t.cfg = s.cfg

/-- The invariant holds right after reset. The parameters and the zero KS and SP there are the model's choice (log
entries 1 and 2). -/
def Obligations.ResetMeetsTheInvariant : Prop := State.reset.Inv

/-- R46 and the storage facts of `State.Inv`: every step keeps the invariant. -/
def Obligations.StepKeepsTheInvariant : Prop :=
  ∀ s t : State, s.Inv → step s = .next t → t.Inv

/-! ### NOP and CLEAR -/

/-- R211: NOP, command word 0x00000000, completes with ERR = 0x00 and does nothing else. -/
def Obligations.NopOnlyCompletes : Prop :=
  decode 0x00000000 = some .nop ∧ ∀ s : State, exec .nop s = .next (completedAs s 0x00)

/-- R210: CLEAR zeroes every KS entry, keyed or not, and leaves everything else. -/
def Obligations.ClearZeroesTheSchedule : Prop :=
  ∀ s : State, s.ks.length = s.cfg.ksEntries →
    exec .clear s = .next { completedAs s 0x00 with ks := List.replicate s.cfg.ksEntries ⟨0, 0, 0⟩ }

/-- R215: CLEAR twice gives the state CLEAR gives once, with every KS entry 0. -/
def Obligations.ClearTwiceIsClearOnce : Prop :=
  ∀ s t : State, exec .clear s = .next t →
    exec .clear t = .next t ∧ ∀ i, subkeyAt t.ks i = ⟨0, 0, 0⟩

/-- R181, R210: after CLEAR encryption equals decryption, and applied twice it is the identity. -/
def Obligations.AfterClearEncryptionIsAnInvolution : Prop :=
  ∀ s t : State, exec .clear s = .next t → t.rounds.toNat % 2 = 0 →
    exec .encb t = exec .decb t ∧
    ∀ b : List Byte, b.length = 8 → t.encryptBlock (t.encryptBlock b) = b

/-! ### NEW, the SP-boxes and the key schedule -/

/-- R142, R235: the checks of NEW in order, each ending the command with its code and nothing else written. -/
def Obligations.NewChecksInOrder : Prop :=
  ∀ s : State,
    ((s.cfg.maxLevel : Int) < s.arg0.toInt → exec .new s = .next (completedAs s 0x03)) ∧
    (s.arg0.toInt ≤ (s.cfg.maxLevel : Int) →
      s.cfg.dbufBytes < s.arg1.toNat + s.arg2.toNat → exec .new s = .next (completedAs s 0x04)) ∧
    (s.arg0.toInt ≤ (s.cfg.maxLevel : Int) →
      s.arg1.toNat + s.arg2.toNat ≤ s.cfg.dbufBytes → s.arg2.toNat < keySizeOf s.arg0 →
      s.cfg.shortKey = .reject → exec .new s = .next (completedAs s 0x05))

/-- R144, R141, R143, R146: NEW with a level operand below 1 builds the thin instance: its sizes, its 8 triples
bit by bit, the SP-boxes where they were not built, and no triple beyond. -/
def Obligations.NewBuildsTheThinInstance : Prop :=
  ∀ s : State, s.cfg.legal = true → s.ks.length = s.cfg.ksEntries → s.arg0.toInt < 1 →
    s.arg1.toNat + s.arg2.toNat ≤ s.cfg.dbufBytes → (8 ≤ s.arg2.toNat ∨ s.cfg.shortKey = .zeroPad) →
    ∃ t : State, exec .new s = .next t ∧
      t.level = 0 ∧ t.rounds = 8 ∧ t.keysize = 8 ∧ t.keyv = true ∧ t.spbv = true ∧
      t.err = 0x00 ∧ t.done = true ∧ t.cstate = .idle ∧
      (∀ i < 8, isTriple (loadKB (keyBytes s 8) 0) 0 i (subkeyAt t.ks i)) ∧
      (∀ i, 8 ≤ i → subkeyAt t.ks i = subkeyAt s.ks i) ∧
      (s.spbv = true → t.sp = s.sp) ∧
      (s.spbv = false → ∀ b < 4, ∀ i < 1024, spAt t.sp b i = spEntry b i)

/-- R144, R141, R143, R147, R150, R152: NEW with a level 1 .. MAX_LEVEL builds that instance: block b's first fill
at triples 8b .. 8b+7, its second, from the key words the first left, at rounds−8−8b .. rounds−1−8b, and no triple
at or beyond rounds. -/
def Obligations.NewBuildsTheLevelledInstance : Prop :=
  ∀ (s : State) (lv : Nat), s.cfg.legal = true → s.ks.length = s.cfg.ksEntries → s.arg0.toInt = (lv : Int) →
    1 ≤ lv → lv ≤ s.cfg.maxLevel → s.arg1.toNat + s.arg2.toNat ≤ s.cfg.dbufBytes →
    (8 * lv ≤ s.arg2.toNat ∨ s.cfg.shortKey = .zeroPad) →
    ∃ t : State, exec .new s = .next t ∧
      t.level.toNat = lv ∧ t.rounds.toNat = 16 * lv ∧ t.keysize.toNat = 8 * lv ∧ t.keyv = true ∧ t.spbv = true ∧
      t.err = 0x00 ∧ t.done = true ∧ t.cstate = .idle ∧
      (∀ b < lv, ∀ i < 8,
        isTriple (loadKB (keyBytes s (8 * lv)) b) 0 i (subkeyAt t.ks (8 * b + i)) ∧
        isTriple (loadKB (keyBytes s (8 * lv)) b) 1 i (subkeyAt t.ks (16 * lv - 8 - 8 * b + i))) ∧
      (∀ i, 16 * lv ≤ i → subkeyAt t.ks i = subkeyAt s.ks i) ∧
      (s.spbv = true → t.sp = s.sp) ∧
      (s.spbv = false → ∀ b < 4, ∀ i < 1024, spAt t.sp b i = spEntry b i)

/-- R144: NEW never reads KS: it succeeds, and builds the same schedule, whatever the previous one was. That KBW holds
the same words afterwards rests on the model's choice of what it keeps there, which R37 leaves open (log entry 10). -/
def Obligations.NewDoesNotDependOnThePreviousSchedule : Prop :=
  ∀ (s t : State) (ks : List Subkey) (kbw : KBW), exec .new s = .next t → t.err = 0x00 →
    s.ks.length = s.cfg.ksEntries → ks.length = s.cfg.ksEntries → s.cfg.legal = true →
    ∃ u : State, exec .new { s with ks := ks, kbw := kbw } = .next u ∧
      u.err = 0x00 ∧ u.rounds = t.rounds ∧ u.kbw = t.kbw ∧ u.sp = t.sp ∧
      ∀ i < t.rounds.toNat, subkeyAt u.ks i = subkeyAt t.ks i

/-- R149: a step moves every bit down one place and re-enters the bit shifted out inverted at bit 15; sixteen steps
complement a key word and thirty-two restore it. -/
def Obligations.RotateWithInversion : Prop :=
  ∀ v : KeyWord,
    (∀ j < 15, (rotInv v).getLsbD j = v.getLsbD (j + 1)) ∧ (rotInv v).getLsbD 15 = !v.getLsbD 0 ∧
    rotInv^[16] v = ~~~v ∧ rotInv^[32] v = v

/-- R148, R149: the schedule-fill routine in closed form, for all key words: every bit of each of the eight
triples it writes, all other triples unchanged, in the first fill and in the second. -/
def Obligations.FillPlacesEveryBit : Prop :=
  ∀ (ks : List Subkey) (kb : KBW) (n n' : Nat), n + 8 ≤ ks.length → n' + 8 ≤ ks.length →
    (∀ i < 8, isTriple kb 0 i (subkeyAt (fill n 0 (ks, kb)).1 (n + i))) ∧
    (∀ i, (i < n ∨ n + 8 ≤ i) → subkeyAt (fill n 0 (ks, kb)).1 i = subkeyAt ks i) ∧
    (∀ i < 8, isTriple kb 1 i (subkeyAt (fill n' 8 (fill n 0 (ks, kb))).1 (n' + i))) ∧
    (∀ i, (i < n' ∨ n' + 8 ≤ i) →
      subkeyAt (fill n' 8 (fill n 0 (ks, kb))).1 i = subkeyAt (fill n 0 (ks, kb)).1 i)

/-- R127: `gfMult` has the zero and the identity, and commutes, for every modulus of the table; and its worked
example. -/
def Obligations.GaloisProductCommutes : Prop :=
  gfMult 0x02 0x80 333 = 0x4D ∧
  ∀ t < 4, ∀ row < 4, ∀ a b : Byte,
    gfMult 0 b (sMod t row) = 0 ∧ gfMult a 0 (sMod t row) = 0 ∧ gfMult 1 b (sMod t row) = b ∧
    gfMult a b (sMod t row) = gfMult b a (sMod t row)

/-- R124, R129: `perm32` moves input bit k to bit `dest(k)`, the place of the one bit of `pBox[k]`, and every bit of
the result is one of these. -/
def Obligations.PermuteMovesEachBit : Prop :=
  (∀ k < 32, pBox k = 1 <<< pBoxDest k) ∧ (∀ j < 32, ∃ k < 32, pBoxDest k = j) ∧
  (∀ (x : Word), ∀ k < 32, (perm32 x).getLsbD (pBoxDest k) = x.getLsbD k)

/-- R122: the bits of SP-box t lie at the eight places of byte 3−t, so that the OR of the round function is the XOR
and the sum of its four terms. -/
def Obligations.SPBoxOutputsAreDisjoint : Prop :=
  (∀ t < 4, ∀ i < 1024, ∀ j < 32, (spEntry t i).getLsbD j = true →
    ∃ k, 8 * (3 - t) ≤ k ∧ k ≤ 8 * (3 - t) + 7 ∧ j = pBoxDest k) ∧
  (∀ al ar : SubkeyWord,
    spCombine spTables al ar =
      spEntry 0 (al >>> 10).toNat ^^^ spEntry 1 (al &&& 0x3ff).toNat ^^^
        spEntry 2 (ar >>> 10).toNat ^^^ spEntry 3 (ar &&& 0x3ff).toNat ∧
    spCombine spTables al ar =
      spEntry 0 (al >>> 10).toNat + spEntry 1 (al &&& 0x3ff).toNat +
        spEntry 2 (ar >>> 10).toNat + spEntry 3 (ar &&& 0x3ff).toNat)

/-! ### The round function and the block core -/

/-- R170: the expansion bit by bit. -/
def Obligations.ExpansionBits : Prop :=
  ∀ p : Word,
    (expandL p).extractLsb' 0 10 = p.extractLsb' 16 10 ∧
    (expandL p).extractLsb' 10 8 = p.extractLsb' 24 8 ∧
    (expandL p).extractLsb' 18 2 = p.extractLsb' 0 2 ∧
    (expandR p).extractLsb' 0 10 = p.extractLsb' 0 10 ∧
    (expandR p).extractLsb' 10 10 = p.extractLsb' 8 10

/-- R171, R172, R173: the round function swaps the bits of tl and tr where sk2 is 1, mixes in sk0 and sk1, and
combines the four SP-box entries at the high and low ten bits. -/
def Obligations.RoundFunctionSwapsMixesAndLooksUp : Prop :=
  ∀ (sp : List (List Word)) (p : Word) (sk : Subkey), ∃ al ar : SubkeyWord,
    (∀ i < 20, al.getLsbD i =
      ((if sk.k2.getLsbD i then (expandR p).getLsbD i else (expandL p).getLsbD i) ^^ sk.k0.getLsbD i)) ∧
    (∀ i < 20, ar.getLsbD i =
      ((if sk.k2.getLsbD i then (expandL p).getLsbD i else (expandR p).getLsbD i) ^^ sk.k1.getLsbD i)) ∧
    roundF sp p sk =
      spAt sp 0 (al.toNat / 1024) ||| spAt sp 1 (al.toNat % 1024) |||
        spAt sp 2 (ar.toNat / 1024) ||| spAt sp 3 (ar.toNat % 1024)

/-- R176, R179: ENCB on a keyed engine: ROUNDS/2 iterations with KS[0], KS[1], … upward from L = DATA0, R = DATA1;
DATA0 receives the final R and DATA1 the final L, and nothing else changes; that L and R keep the final halves is the
model's choice (log entry 10). -/
def Obligations.EncbEncryptsInPlace : Prop :=
  ∀ s : State, s.keyv = true → ∃ L R : Nat → Word,
    L 0 = s.data0 ∧ R 0 = s.data1 ∧
    (∀ k < s.rounds.toNat / 2,
      L (k + 1) = L k ^^^ roundF s.sp (R k) (subkeyAt s.ks (2 * k)) ∧
      R (k + 1) = R k ^^^ roundF s.sp (L (k + 1)) (subkeyAt s.ks (2 * k + 1))) ∧
    exec .encb s = .next
      { completedAs s 0x00 with
        data0 := R (s.rounds.toNat / 2), data1 := L (s.rounds.toNat / 2),
        l := L (s.rounds.toNat / 2), r := R (s.rounds.toNat / 2) }

/-- R177, R180: DECB on a keyed engine: ROUNDS/2 iterations with KS[ROUNDS−1], KS[ROUNDS−2], … downward; L and R as
for ENCB (log entry 10). -/
def Obligations.DecbDecryptsInPlace : Prop :=
  ∀ s : State, s.keyv = true → ∃ L R : Nat → Word,
    L 0 = s.data0 ∧ R 0 = s.data1 ∧
    (∀ k < s.rounds.toNat / 2,
      L (k + 1) = L k ^^^ roundF s.sp (R k) (subkeyAt s.ks (s.rounds.toNat - 1 - 2 * k)) ∧
      R (k + 1) = R k ^^^ roundF s.sp (L (k + 1)) (subkeyAt s.ks (s.rounds.toNat - 2 - 2 * k))) ∧
    exec .decb s = .next
      { completedAs s 0x00 with
        data0 := R (s.rounds.toNat / 2), data1 := L (s.rounds.toNat / 2),
        l := L (s.rounds.toNat / 2), r := R (s.rounds.toNat / 2) }

/-- R178: decryption undoes encryption and encryption undoes decryption, for every schedule and every block. -/
def Obligations.DecryptionInvertsEncryption : Prop :=
  ∀ (s : State) (b : List Byte), s.rounds.toNat % 2 = 0 → b.length = 8 →
    s.decryptBlock (s.encryptBlock b) = b ∧ s.encryptBlock (s.decryptBlock b) = b

/-- R181: under a palindromic schedule encryption is decryption, so applying it twice gives the block back. -/
def Obligations.PalindromicScheduleMakesThemEqual : Prop :=
  ∀ (s : State) (b : List Byte), s.rounds.toNat % 2 = 0 →
    (∀ i < s.rounds.toNat, subkeyAt s.ks i = subkeyAt s.ks (s.rounds.toNat - 1 - i)) →
    s.encryptBlock b = s.decryptBlock b ∧ (b.length = 8 → s.encryptBlock (s.encryptBlock b) = b)

/-- R180: DECB after ENCB restores DATA0 and DATA1. -/
def Obligations.DecbRestoresWhatEncbEncrypted : Prop :=
  ∀ s : State, s.keyv = true → s.rounds.toNat % 2 = 0 → ∃ t u : State,
    exec .encb s = .next t ∧ exec .decb t = .next u ∧ u.data0 = s.data0 ∧ u.data1 = s.data1

/-- R28, R235, R261: with KEYV = 0 the four block commands fail with E_NOKEY before any other check. -/
def Obligations.BlockCommandsNeedAnInstance : Prop :=
  ∀ (s : State) (i : Instr), s.keyv = false → (i = .enc ∨ i = .dec ∨ i = .encb ∨ i = .decb) →
    exec i s = .next (completedAs s 0x02)

/-! ### ENC and DEC -/

/-- R68, R191, R235: ENC on a keyed engine fails with E_RANGE where its source or its padded destination leaves
DBUF, the sums unbounded, and writes nothing. -/
def Obligations.EncChecksItsRegions : Prop :=
  ∀ s : State, s.keyv = true →
    (s.cfg.dbufBytes < s.arg0.toNat + s.arg1.toNat ∨
      s.cfg.dbufBytes < s.arg2.toNat + 8 * ((s.arg1.toNat + 7) / 8)) →
    exec .enc s = .next (completedAs s 0x04)

/-- R68, R192, R235: DEC on a keyed engine: E_INLEN under REJECT first, then E_RANGE; nothing is written. -/
def Obligations.DecChecksInOrder : Prop :=
  ∀ s : State, s.keyv = true →
    (s.arg1.toNat % 8 ≠ 0 → s.cfg.decPartial = .reject → exec .dec s = .next (completedAs s 0x06)) ∧
    ((s.arg1.toNat % 8 = 0 ∨ s.cfg.decPartial = .truncate) →
      (s.cfg.dbufBytes < s.arg0.toNat + s.arg1.toNat ∨
        s.cfg.dbufBytes < s.arg2.toNat + 8 * (s.arg1.toNat / 8)) →
      exec .dec s = .next (completedAs s 0x04))

/-- R190, R191, R193: ENC in full, overlapping regions included: DBUF goes through P/8 contents, block k read from
contents k, zero padded, and its encryption stored before block k+1 is read; RESULT is P. -/
def Obligations.EncIsTheSequentialResult : Prop :=
  ∀ s : State, s.cfg.legal = true → s.keyv = true →
    s.arg0.toNat + s.arg1.toNat ≤ s.cfg.dbufBytes →
    s.arg2.toNat + 8 * ((s.arg1.toNat + 7) / 8) ≤ s.cfg.dbufBytes →
    ∃ (t : State) (m : Nat → Nat → Byte), exec .enc s = .next t ∧
      t.result.toNat = 8 * ((s.arg1.toNat + 7) / 8) ∧ t.err = 0x00 ∧ t.done = true ∧ t.cstate = .idle ∧
      m 0 = s.dbufByte ∧
      (∀ k < (s.arg1.toNat + 7) / 8,
        m (k + 1) = storeAt (m k) (s.arg2.toNat + 8 * k)
          (s.encryptBlock (inputBlock (m k) s.arg0.toNat s.arg1.toNat k))) ∧
      t.dbufByte = m ((s.arg1.toNat + 7) / 8)

/-- R192, R193: DEC in full, overlapping regions included; under TRUNCATE the tail of a partial block is neither
read into a block nor written; RESULT is Q. -/
def Obligations.DecIsTheSequentialResult : Prop :=
  ∀ s : State, s.cfg.legal = true → s.keyv = true →
    (s.arg1.toNat % 8 = 0 ∨ s.cfg.decPartial = .truncate) →
    s.arg0.toNat + s.arg1.toNat ≤ s.cfg.dbufBytes →
    s.arg2.toNat + 8 * (s.arg1.toNat / 8) ≤ s.cfg.dbufBytes →
    ∃ (t : State) (m : Nat → Nat → Byte), exec .dec s = .next t ∧
      t.result.toNat = 8 * (s.arg1.toNat / 8) ∧ t.err = 0x00 ∧ t.done = true ∧ t.cstate = .idle ∧
      m 0 = s.dbufByte ∧
      (∀ k < s.arg1.toNat / 8,
        m (k + 1) = storeAt (m k) (s.arg2.toNat + 8 * k)
          (s.decryptBlock (inputBlock (m k) s.arg0.toNat s.arg1.toNat k))) ∧
      t.dbufByte = m (s.arg1.toNat / 8)

/-- R194, R193: where the destination does not start inside the source region ahead of it (disjoint regions and
`dst = src` among them), output block k of ENC or DEC is the encryption or decryption of input block k as DBUF held
it before the command. -/
def Obligations.BlocksAreIndependentWithoutOverlap : Prop :=
  (∀ s t : State, exec .enc s = .next t → t.err = 0x00 →
    (s.arg2.toNat ≤ s.arg0.toNat ∨ s.arg0.toNat + s.arg1.toNat ≤ s.arg2.toNat) →
    ∀ k < (s.arg1.toNat + 7) / 8, ∀ j < 8,
      t.dbufByte (s.arg2.toNat + 8 * k + j) =
        byteAt (s.encryptBlock (inputBlock s.dbufByte s.arg0.toNat s.arg1.toNat k)) j) ∧
  (∀ s t : State, exec .dec s = .next t → t.err = 0x00 →
    (s.arg2.toNat ≤ s.arg0.toNat ∨ s.arg0.toNat + s.arg1.toNat ≤ s.arg2.toNat) →
    ∀ k < s.arg1.toNat / 8, ∀ j < 8,
      t.dbufByte (s.arg2.toNat + 8 * k + j) =
        byteAt (s.decryptBlock (inputBlock s.dbufByte s.arg0.toNat s.arg1.toNat k)) j)

/-- R195: a zero-length ENC or DEC on a keyed engine succeeds, touches no DBUF byte and sets RESULT = 0, where both
offsets are at most DBUF_BYTES; elsewhere it fails with E_RANGE. -/
def Obligations.ZeroLengthSucceeds : Prop :=
  ∀ (s : State) (i : Instr), (i = .enc ∨ i = .dec) → s.keyv = true → s.arg1 = 0 →
    exec i s = .next
      (if s.arg0.toNat ≤ s.cfg.dbufBytes ∧ s.arg2.toNat ≤ s.cfg.dbufBytes then
        { completedAs s 0x00 with result := 0 }
      else completedAs s 0x04)

/-- R196: ENC of n bytes, then DEC of the RESULT bytes to a region apart, gives back the n bytes ENC read and then
the zero padding, whatever the host does to the operands in between. -/
def Obligations.DecOfEncRestoresTheInput : Prop :=
  ∀ s t u v : State, exec .enc s = .next t → t.err = 0x00 →
    s.cfg.legal = true → s.rounds.toNat % 2 = 0 →
    (s.arg2.toNat ≤ s.arg0.toNat ∨ s.arg0.toNat + s.arg1.toNat ≤ s.arg2.toNat) →
    u.sp = t.sp → u.ks = t.ks → u.rounds = t.rounds → u.dbuf = t.dbuf →
    u.arg0 = t.arg2 → u.arg1 = t.result →
    (u.arg2.toNat ≤ u.arg0.toNat ∨ u.arg0.toNat + u.arg1.toNat ≤ u.arg2.toNat) →
    exec .dec u = .next v → v.err = 0x00 →
    v.result = t.result ∧
    ∀ j < t.result.toNat, v.dbufByte (u.arg2.toNat + j) =
      if j < s.arg1.toNat then s.dbufByte (s.arg0.toNat + j) else 0

/-! ### The register window -/

/-- R25, R26, R49: the bits of STATUS, reserved bits 0. -/
def Obligations.StatusWordLayout : Prop :=
  ∀ s : State,
    s.statusWord.getLsbD 0 = decide (s.cstate = .busy) ∧ s.statusWord.getLsbD 1 = s.spbv ∧
    s.statusWord.getLsbD 2 = s.keyv ∧ s.statusWord.getLsbD 3 = s.done ∧ s.statusWord.getLsbD 4 = s.ovr ∧
    s.statusWord.extractLsb' 5 3 = 0 ∧ s.statusWord.extractLsb' 8 8 = s.err ∧ s.statusWord.extractLsb' 16 16 = 0

/-- R22, R33: a CMD write while idle latches the word and sets BUSY and nothing else; while BUSY it is dropped and
sets OVR. The answer to a dropped write is the model's reading (log entry 8). -/
def Obligations.CommandWriteIssuesOrOverruns : Prop :=
  ∀ (s : State) (v : Word),
    (s.cstate = .idle → s.hostAccess (.wr32 0x00C v) = { s with pend := v, cstate := .busy, port := .ack }) ∧
    (s.cstate = .busy → s.hostAccess (.wr32 0x00C v) = { s with ovr := true, port := .ack })

/-- R25, R32, R240: STATUS is write-1-to-clear in bits 3 and 4 and INTEN keeps bit 0, busy or not; neither sets
OVR. -/
def Obligations.StatusAndIntenWrites : Prop :=
  ∀ (s : State) (v : Word),
    s.hostAccess (.wr32 0x004 v) =
      { s with
        done := if v.getLsbD 3 then false else s.done
        ovr := if v.getLsbD 4 then false else s.ovr
        port := .ack } ∧
    s.hostAccess (.wr32 0x008 v) = { s with doneie := v.getLsbD 0, port := .ack }

/-- R34, R36, R49: while idle ARG0 to ARG2, DATA0 and DATA1 take the written word; a write to a read-only register is
ignored, busy or not, and does not set OVR. The answer to an ignored write is the model's reading (log entry 8). -/
def Obligations.OperandAndReadOnlyWrites : Prop :=
  (∀ (s : State) (v : Word), s.cstate = .idle →
    s.hostAccess (.wr32 0x010 v) = { s with arg0 := v, port := .ack } ∧
    s.hostAccess (.wr32 0x014 v) = { s with arg1 := v, port := .ack } ∧
    s.hostAccess (.wr32 0x018 v) = { s with arg2 := v, port := .ack } ∧
    s.hostAccess (.wr32 0x020 v) = { s with data0 := v, port := .ack } ∧
    s.hostAccess (.wr32 0x024 v) = { s with data1 := v, port := .ack }) ∧
  (∀ (s : State) (v : Word) (off : Offset),
    off ∈ ([0x000, 0x01C, 0x028, 0x02C, 0x030, 0x034, 0x038, 0x03C] : List Offset) →
    s.hostAccess (.wr32 off v) = { s with port := .ack })

/-- R30, R83: while BUSY = 1 a write to CMD, ARG0 to ARG2, DATA0, DATA1 or any DBUF byte is dropped, sets OVR and
changes nothing else. The answer to a dropped write is the model's reading (log entry 8). -/
def Obligations.WritesWhileBusyAreDropped : Prop :=
  ∀ (s : State) (off : Offset), s.cstate = .busy →
    (off ∈ ([0x00C, 0x010, 0x014, 0x018, 0x020, 0x024] : List Offset) →
      ∀ v : Word, s.hostAccess (.wr32 off v) = { s with ovr := true, port := .ack }) ∧
    (0x8000 ≤ off.toNat → off.toNat < 0x8000 + s.cfg.dbufBytes →
      (∀ b : Byte, s.hostAccess (.wr8 off b) = { s with ovr := true, port := .ack }) ∧
      (off.toNat % 4 = 0 →
        ∀ v : Word, s.hostAccess (.wr32 off v) = { s with ovr := true, port := .ack }))

/-- R23, R24, R33, R41, R42, R83: what the registers read as: ID, STATUS, INTEN, CMD, BLKSIZE, CAPS0 and CAPS1 at
any time, the others while idle. -/
def Obligations.RegisterReads : Prop :=
  (∀ s : State,
    (s.hostAccess (.rd32 0x000)).port = .data32 0x49434531 ∧
    (s.hostAccess (.rd32 0x004)).port = .data32 s.statusWord ∧
    (s.hostAccess (.rd32 0x008)).port = .data32 (if s.doneie then 1 else 0) ∧
    (s.hostAccess (.rd32 0x00C)).port = .data32 0 ∧
    (s.hostAccess (.rd32 0x034)).port = .data32 8 ∧
    (s.hostAccess (.rd32 0x038)).port = .data32 (BitVec.ofNat 32 s.cfg.maxLevel) ∧
    (s.hostAccess (.rd32 0x03C)).port = .data32 (BitVec.ofNat 32 s.cfg.dbufBytes)) ∧
  ∀ s : State, s.cstate = .idle →
    (s.hostAccess (.rd32 0x010)).port = .data32 s.arg0 ∧
    (s.hostAccess (.rd32 0x014)).port = .data32 s.arg1 ∧
    (s.hostAccess (.rd32 0x018)).port = .data32 s.arg2 ∧
    (s.hostAccess (.rd32 0x01C)).port = .data32 s.result ∧
    (s.hostAccess (.rd32 0x020)).port = .data32 s.data0 ∧
    (s.hostAccess (.rd32 0x024)).port = .data32 s.data1 ∧
    (s.hostAccess (.rd32 0x028)).port = .data32 s.level ∧
    (s.hostAccess (.rd32 0x02C)).port = .data32 s.rounds ∧
    (s.hostAccess (.rd32 0x030)).port = .data32 s.keysize

/-- R74: a host read changes nothing but the port's answer. -/
def Obligations.HostReadsHaveNoSideEffect : Prop :=
  ∀ (s : State) (op : HostOp), isRead op = true → ∃ p : Response, s.hostAccess op = { s with port := p }

/-- R69, R64, R65: an access the window does not admit gets the error response, on the model's port, and changes no
state; a read's data is a free value (log entries 5 and 7). -/
def Obligations.BusErrorsChangeNothing : Prop :=
  ∀ (s : State) (op : HostOp), illegalAccess s.cfg op →
    (isRead op = true → ∃ x : Word, s.hostAccess op = { s with port := .readError x }) ∧
    (isRead op = false → s.hostAccess op = { s with port := .writeError })

/-- R65: while idle, 8-bit accesses to DBUF at any offset and 32-bit big-endian accesses at aligned ones; a write
changes its own bytes and nothing else. -/
def Obligations.DbufAccessesAreBigEndian : Prop :=
  ∀ (s : State) (off : Offset) (a : Nat), s.cstate = .idle → off.toNat = 0x8000 + a → a < s.cfg.dbufBytes →
    (s.hostAccess (.rd8 off)).port = .data8 (s.dbufByte a) ∧
    (∀ v : Byte, ∃ d : Memory, s.hostAccess (.wr8 off v) = { s with dbuf := d, port := .ack } ∧
      ∀ x, (s.hostAccess (.wr8 off v)).dbufByte x = if x = a then v else s.dbufByte x) ∧
    (a % 4 = 0 →
      (s.hostAccess (.rd32 off)).port =
        .data32 (be32 (s.dbufByte a) (s.dbufByte (a + 1)) (s.dbufByte (a + 2)) (s.dbufByte (a + 3))) ∧
      ∀ v : Word, ∃ d : Memory, s.hostAccess (.wr32 off v) = { s with dbuf := d, port := .ack } ∧
        ∀ x, (s.hostAccess (.wr32 off v)).dbufByte x =
          if x = a then v.extractLsb' 24 8
          else if x = a + 1 then v.extractLsb' 16 8
          else if x = a + 2 then v.extractLsb' 8 8
          else if x = a + 3 then v.extractLsb' 0 8
          else s.dbufByte x)

/-- R43, R44, R84: KS, SP, KBW, L and R are in no address space: no host access changes them, and no answer of the
port depends on them. -/
def Obligations.InternalStorageIsOutOfReach : Prop :=
  ∀ (s : State) (op : HostOp) (ks : List Subkey) (sp : List (List Word)) (kbw : KBW) (l r : Word),
    (s.hostAccess op).ks = s.ks ∧ (s.hostAccess op).sp = s.sp ∧ (s.hostAccess op).kbw = s.kbw ∧
    (s.hostAccess op).l = s.l ∧ (s.hostAccess op).r = s.r ∧
    ({ s with ks := ks, sp := sp, kbw := kbw, l := l, r := r }.hostAccess op).port = (s.hostAccess op).port

/-! ### Interrupt and reset -/

/-- R47, R238: irq is DONE and DONEIE; every completion of the engine raises it where enabled, and a write of 1 to
STATUS bit 3 takes it away. -/
def Obligations.CompletionRaisesTheInterrupt : Prop :=
  (∀ s : State, s.irq = (s.done && s.doneie)) ∧
  (∀ (i : Instr) (s t : State), exec i s = .next t → t.irq = s.doneie) ∧
  (∀ (s : State) (v : Word), v.getLsbD 3 = true → (s.hostAccess (.wr32 0x004 v)).irq = false)

/-- R48, R260, R263: a reset puts every piece of state whose reset value the table gives at that value, at any time
and whatever is running. -/
def Obligations.ResetGivesTheTableOfValues : Prop :=
  ∀ s : State, s.events.head? = some .reset → ∃ t : State, step s = .next t ∧
    t.cstate = .idle ∧ t.spbv = false ∧ t.keyv = false ∧ t.done = false ∧ t.ovr = false ∧ t.err = 0x00 ∧
    t.intenWord = 0 ∧ t.arg0 = 0 ∧ t.arg1 = 0 ∧ t.arg2 = 0 ∧ t.result = 0 ∧ t.data0 = 0 ∧ t.data1 = 0 ∧
    t.level = 0 ∧ t.rounds = 0 ∧ t.keysize = 0 ∧ t.irq = false ∧ t.cfg = s.cfg

/-- R262: a reset while a command runs abandons it: no completion, and each DBUF byte the command would have written
holds its old or its new value (byte by byte, log entry 6). -/
def Obligations.ResetWhileBusyAbandonsTheCommand : Prop :=
  ∀ (s t u : State) (i : Instr), s.events.head? = some .reset → s.cstate = .busy → decode s.pend = some i →
    step s = .next t → exec i s.tick = .next u → u.err = 0x00 →
    t.done = false ∧ t.err = 0x00 ∧ t.cstate = .idle ∧
    (∀ k, i = .enc → k < paddedLen s.arg1.toNat →
      t.dbufByte (s.arg2.toNat + k) = s.tick.dbufByte (s.arg2.toNat + k) ∨
      t.dbufByte (s.arg2.toNat + k) = u.dbufByte (s.arg2.toNat + k)) ∧
    (∀ k, i = .dec → k < wholeLen s.arg1.toNat →
      t.dbufByte (s.arg2.toNat + k) = s.tick.dbufByte (s.arg2.toNat + k) ∨
      t.dbufByte (s.arg2.toNat + k) = u.dbufByte (s.arg2.toNat + k))
end

