-- ==== Sys2Proof/Laws/State.lean ====
section
/-! SUPPORT. One lemma per field per update of `State`, each true by `rfl`, so that no proof unfolds a record
update. -/

namespace Sys2Proof.Machine

@[simp] theorem State.failWith_eq (s : State) (e : ErrCode) : s.failWith e = s.complete e := rfl

@[simp] theorem State.succeed_eq (s : State) : s.succeed = s.complete .ok := rfl

@[simp] theorem State.failIllegal_eq (s : State) : s.failIllegal = s.complete .illegal := rfl


/-! `complete`: rules R232, R233. -/

@[simp] theorem State.complete_cstate (s : State) (e : ErrCode) : (s.complete e).cstate = .idle := rfl
@[simp] theorem State.complete_pend (s : State) (e : ErrCode) : (s.complete e).pend = s.pend := rfl
@[simp] theorem State.complete_spbv (s : State) (e : ErrCode) : (s.complete e).spbv = s.spbv := rfl
@[simp] theorem State.complete_keyv (s : State) (e : ErrCode) : (s.complete e).keyv = s.keyv := rfl
@[simp] theorem State.complete_done (s : State) (e : ErrCode) : (s.complete e).done = true := rfl
@[simp] theorem State.complete_ovr (s : State) (e : ErrCode) : (s.complete e).ovr = s.ovr := rfl
@[simp] theorem State.complete_err (s : State) (e : ErrCode) : (s.complete e).err = e.code := rfl
@[simp] theorem State.complete_doneie (s : State) (e : ErrCode) : (s.complete e).doneie = s.doneie := rfl
@[simp] theorem State.complete_arg0 (s : State) (e : ErrCode) : (s.complete e).arg0 = s.arg0 := rfl
@[simp] theorem State.complete_arg1 (s : State) (e : ErrCode) : (s.complete e).arg1 = s.arg1 := rfl
@[simp] theorem State.complete_arg2 (s : State) (e : ErrCode) : (s.complete e).arg2 = s.arg2 := rfl
@[simp] theorem State.complete_result (s : State) (e : ErrCode) : (s.complete e).result = s.result := rfl
@[simp] theorem State.complete_data0 (s : State) (e : ErrCode) : (s.complete e).data0 = s.data0 := rfl
@[simp] theorem State.complete_data1 (s : State) (e : ErrCode) : (s.complete e).data1 = s.data1 := rfl
@[simp] theorem State.complete_level (s : State) (e : ErrCode) : (s.complete e).level = s.level := rfl
@[simp] theorem State.complete_rounds (s : State) (e : ErrCode) : (s.complete e).rounds = s.rounds := rfl
@[simp] theorem State.complete_keysize (s : State) (e : ErrCode) : (s.complete e).keysize = s.keysize := rfl
@[simp] theorem State.complete_kbw (s : State) (e : ErrCode) : (s.complete e).kbw = s.kbw := rfl
@[simp] theorem State.complete_ks (s : State) (e : ErrCode) : (s.complete e).ks = s.ks := rfl
@[simp] theorem State.complete_sp (s : State) (e : ErrCode) : (s.complete e).sp = s.sp := rfl
@[simp] theorem State.complete_l (s : State) (e : ErrCode) : (s.complete e).l = s.l := rfl
@[simp] theorem State.complete_r (s : State) (e : ErrCode) : (s.complete e).r = s.r := rfl
@[simp] theorem State.complete_dbuf (s : State) (e : ErrCode) : (s.complete e).dbuf = s.dbuf := rfl
@[simp] theorem State.complete_cfg (s : State) (e : ErrCode) : (s.complete e).cfg = s.cfg := rfl
@[simp] theorem State.complete_port (s : State) (e : ErrCode) : (s.complete e).port = s.port := rfl
@[simp] theorem State.complete_events (s : State) (e : ErrCode) : (s.complete e).events = s.events := rfl
@[simp] theorem State.complete_draws (s : State) (e : ErrCode) : (s.complete e).draws = s.draws := rfl

/-! `issue`: rule R22. -/

@[simp] theorem State.issue_cstate (s : State) (c : Word) : (s.issue c).cstate = .busy := rfl
@[simp] theorem State.issue_pend (s : State) (c : Word) : (s.issue c).pend = c := rfl
@[simp] theorem State.issue_spbv (s : State) (c : Word) : (s.issue c).spbv = s.spbv := rfl
@[simp] theorem State.issue_keyv (s : State) (c : Word) : (s.issue c).keyv = s.keyv := rfl
@[simp] theorem State.issue_done (s : State) (c : Word) : (s.issue c).done = s.done := rfl
@[simp] theorem State.issue_ovr (s : State) (c : Word) : (s.issue c).ovr = s.ovr := rfl
@[simp] theorem State.issue_err (s : State) (c : Word) : (s.issue c).err = s.err := rfl
@[simp] theorem State.issue_doneie (s : State) (c : Word) : (s.issue c).doneie = s.doneie := rfl
@[simp] theorem State.issue_arg0 (s : State) (c : Word) : (s.issue c).arg0 = s.arg0 := rfl
@[simp] theorem State.issue_arg1 (s : State) (c : Word) : (s.issue c).arg1 = s.arg1 := rfl
@[simp] theorem State.issue_arg2 (s : State) (c : Word) : (s.issue c).arg2 = s.arg2 := rfl
@[simp] theorem State.issue_result (s : State) (c : Word) : (s.issue c).result = s.result := rfl
@[simp] theorem State.issue_data0 (s : State) (c : Word) : (s.issue c).data0 = s.data0 := rfl
@[simp] theorem State.issue_data1 (s : State) (c : Word) : (s.issue c).data1 = s.data1 := rfl
@[simp] theorem State.issue_level (s : State) (c : Word) : (s.issue c).level = s.level := rfl
@[simp] theorem State.issue_rounds (s : State) (c : Word) : (s.issue c).rounds = s.rounds := rfl
@[simp] theorem State.issue_keysize (s : State) (c : Word) : (s.issue c).keysize = s.keysize := rfl
@[simp] theorem State.issue_kbw (s : State) (c : Word) : (s.issue c).kbw = s.kbw := rfl
@[simp] theorem State.issue_ks (s : State) (c : Word) : (s.issue c).ks = s.ks := rfl
@[simp] theorem State.issue_sp (s : State) (c : Word) : (s.issue c).sp = s.sp := rfl
@[simp] theorem State.issue_l (s : State) (c : Word) : (s.issue c).l = s.l := rfl
@[simp] theorem State.issue_r (s : State) (c : Word) : (s.issue c).r = s.r := rfl
@[simp] theorem State.issue_dbuf (s : State) (c : Word) : (s.issue c).dbuf = s.dbuf := rfl
@[simp] theorem State.issue_cfg (s : State) (c : Word) : (s.issue c).cfg = s.cfg := rfl
@[simp] theorem State.issue_port (s : State) (c : Word) : (s.issue c).port = s.port := rfl
@[simp] theorem State.issue_events (s : State) (c : Word) : (s.issue c).events = s.events := rfl
@[simp] theorem State.issue_draws (s : State) (c : Word) : (s.issue c).draws = s.draws := rfl

/-! `tick`: the model's own fields. -/

@[simp] theorem State.tick_cstate (s : State) : (s.tick).cstate = s.cstate := rfl
@[simp] theorem State.tick_pend (s : State) : (s.tick).pend = s.pend := rfl
@[simp] theorem State.tick_spbv (s : State) : (s.tick).spbv = s.spbv := rfl
@[simp] theorem State.tick_keyv (s : State) : (s.tick).keyv = s.keyv := rfl
@[simp] theorem State.tick_done (s : State) : (s.tick).done = s.done := rfl
@[simp] theorem State.tick_ovr (s : State) : (s.tick).ovr = s.ovr := rfl
@[simp] theorem State.tick_err (s : State) : (s.tick).err = s.err := rfl
@[simp] theorem State.tick_doneie (s : State) : (s.tick).doneie = s.doneie := rfl
@[simp] theorem State.tick_arg0 (s : State) : (s.tick).arg0 = s.arg0 := rfl
@[simp] theorem State.tick_arg1 (s : State) : (s.tick).arg1 = s.arg1 := rfl
@[simp] theorem State.tick_arg2 (s : State) : (s.tick).arg2 = s.arg2 := rfl
@[simp] theorem State.tick_result (s : State) : (s.tick).result = s.result := rfl
@[simp] theorem State.tick_data0 (s : State) : (s.tick).data0 = s.data0 := rfl
@[simp] theorem State.tick_data1 (s : State) : (s.tick).data1 = s.data1 := rfl
@[simp] theorem State.tick_level (s : State) : (s.tick).level = s.level := rfl
@[simp] theorem State.tick_rounds (s : State) : (s.tick).rounds = s.rounds := rfl
@[simp] theorem State.tick_keysize (s : State) : (s.tick).keysize = s.keysize := rfl
@[simp] theorem State.tick_kbw (s : State) : (s.tick).kbw = s.kbw := rfl
@[simp] theorem State.tick_ks (s : State) : (s.tick).ks = s.ks := rfl
@[simp] theorem State.tick_sp (s : State) : (s.tick).sp = s.sp := rfl
@[simp] theorem State.tick_l (s : State) : (s.tick).l = s.l := rfl
@[simp] theorem State.tick_r (s : State) : (s.tick).r = s.r := rfl
@[simp] theorem State.tick_dbuf (s : State) : (s.tick).dbuf = s.dbuf := rfl
@[simp] theorem State.tick_cfg (s : State) : (s.tick).cfg = s.cfg := rfl
@[simp] theorem State.tick_port (s : State) : (s.tick).port = s.port := rfl
@[simp] theorem State.tick_events (s : State) : (s.tick).events = s.events.tail := rfl
@[simp] theorem State.tick_draws (s : State) : (s.tick).draws = s.draws + 1 := rfl

/-! `memWrite`: rule R67. -/

@[simp] theorem State.memWrite_cstate (s : State) (a : Nat) (b : List Byte) : (s.memWrite a b).cstate = s.cstate := rfl
@[simp] theorem State.memWrite_pend (s : State) (a : Nat) (b : List Byte) : (s.memWrite a b).pend = s.pend := rfl
@[simp] theorem State.memWrite_spbv (s : State) (a : Nat) (b : List Byte) : (s.memWrite a b).spbv = s.spbv := rfl
@[simp] theorem State.memWrite_keyv (s : State) (a : Nat) (b : List Byte) : (s.memWrite a b).keyv = s.keyv := rfl
@[simp] theorem State.memWrite_done (s : State) (a : Nat) (b : List Byte) : (s.memWrite a b).done = s.done := rfl
@[simp] theorem State.memWrite_ovr (s : State) (a : Nat) (b : List Byte) : (s.memWrite a b).ovr = s.ovr := rfl
@[simp] theorem State.memWrite_err (s : State) (a : Nat) (b : List Byte) : (s.memWrite a b).err = s.err := rfl
@[simp] theorem State.memWrite_doneie (s : State) (a : Nat) (b : List Byte) : (s.memWrite a b).doneie = s.doneie := rfl
@[simp] theorem State.memWrite_arg0 (s : State) (a : Nat) (b : List Byte) : (s.memWrite a b).arg0 = s.arg0 := rfl
@[simp] theorem State.memWrite_arg1 (s : State) (a : Nat) (b : List Byte) : (s.memWrite a b).arg1 = s.arg1 := rfl
@[simp] theorem State.memWrite_arg2 (s : State) (a : Nat) (b : List Byte) : (s.memWrite a b).arg2 = s.arg2 := rfl
@[simp] theorem State.memWrite_result (s : State) (a : Nat) (b : List Byte) : (s.memWrite a b).result = s.result := rfl
@[simp] theorem State.memWrite_data0 (s : State) (a : Nat) (b : List Byte) : (s.memWrite a b).data0 = s.data0 := rfl
@[simp] theorem State.memWrite_data1 (s : State) (a : Nat) (b : List Byte) : (s.memWrite a b).data1 = s.data1 := rfl
@[simp] theorem State.memWrite_level (s : State) (a : Nat) (b : List Byte) : (s.memWrite a b).level = s.level := rfl
@[simp] theorem State.memWrite_rounds (s : State) (a : Nat) (b : List Byte) : (s.memWrite a b).rounds = s.rounds := rfl
@[simp] theorem State.memWrite_keysize (s : State) (a : Nat) (b : List Byte) : (s.memWrite a b).keysize = s.keysize := rfl
@[simp] theorem State.memWrite_kbw (s : State) (a : Nat) (b : List Byte) : (s.memWrite a b).kbw = s.kbw := rfl
@[simp] theorem State.memWrite_ks (s : State) (a : Nat) (b : List Byte) : (s.memWrite a b).ks = s.ks := rfl
@[simp] theorem State.memWrite_sp (s : State) (a : Nat) (b : List Byte) : (s.memWrite a b).sp = s.sp := rfl
@[simp] theorem State.memWrite_l (s : State) (a : Nat) (b : List Byte) : (s.memWrite a b).l = s.l := rfl
@[simp] theorem State.memWrite_r (s : State) (a : Nat) (b : List Byte) : (s.memWrite a b).r = s.r := rfl
@[simp] theorem State.memWrite_dbuf (s : State) (a : Nat) (b : List Byte) : (s.memWrite a b).dbuf = s.dbuf.writeBytes a b := rfl
@[simp] theorem State.memWrite_cfg (s : State) (a : Nat) (b : List Byte) : (s.memWrite a b).cfg = s.cfg := rfl
@[simp] theorem State.memWrite_port (s : State) (a : Nat) (b : List Byte) : (s.memWrite a b).port = s.port := rfl
@[simp] theorem State.memWrite_events (s : State) (a : Nat) (b : List Byte) : (s.memWrite a b).events = s.events := rfl
@[simp] theorem State.memWrite_draws (s : State) (a : Nat) (b : List Byte) : (s.memWrite a b).draws = s.draws := rfl

/-! `setHalves`: rule R51. -/

@[simp] theorem State.setHalves_cstate (s : State) (h : Halves) : (s.setHalves h).cstate = s.cstate := rfl
@[simp] theorem State.setHalves_pend (s : State) (h : Halves) : (s.setHalves h).pend = s.pend := rfl
@[simp] theorem State.setHalves_spbv (s : State) (h : Halves) : (s.setHalves h).spbv = s.spbv := rfl
@[simp] theorem State.setHalves_keyv (s : State) (h : Halves) : (s.setHalves h).keyv = s.keyv := rfl
@[simp] theorem State.setHalves_done (s : State) (h : Halves) : (s.setHalves h).done = s.done := rfl
@[simp] theorem State.setHalves_ovr (s : State) (h : Halves) : (s.setHalves h).ovr = s.ovr := rfl
@[simp] theorem State.setHalves_err (s : State) (h : Halves) : (s.setHalves h).err = s.err := rfl
@[simp] theorem State.setHalves_doneie (s : State) (h : Halves) : (s.setHalves h).doneie = s.doneie := rfl
@[simp] theorem State.setHalves_arg0 (s : State) (h : Halves) : (s.setHalves h).arg0 = s.arg0 := rfl
@[simp] theorem State.setHalves_arg1 (s : State) (h : Halves) : (s.setHalves h).arg1 = s.arg1 := rfl
@[simp] theorem State.setHalves_arg2 (s : State) (h : Halves) : (s.setHalves h).arg2 = s.arg2 := rfl
@[simp] theorem State.setHalves_result (s : State) (h : Halves) : (s.setHalves h).result = s.result := rfl
@[simp] theorem State.setHalves_data0 (s : State) (h : Halves) : (s.setHalves h).data0 = s.data0 := rfl
@[simp] theorem State.setHalves_data1 (s : State) (h : Halves) : (s.setHalves h).data1 = s.data1 := rfl
@[simp] theorem State.setHalves_level (s : State) (h : Halves) : (s.setHalves h).level = s.level := rfl
@[simp] theorem State.setHalves_rounds (s : State) (h : Halves) : (s.setHalves h).rounds = s.rounds := rfl
@[simp] theorem State.setHalves_keysize (s : State) (h : Halves) : (s.setHalves h).keysize = s.keysize := rfl
@[simp] theorem State.setHalves_kbw (s : State) (h : Halves) : (s.setHalves h).kbw = s.kbw := rfl
@[simp] theorem State.setHalves_ks (s : State) (h : Halves) : (s.setHalves h).ks = s.ks := rfl
@[simp] theorem State.setHalves_sp (s : State) (h : Halves) : (s.setHalves h).sp = s.sp := rfl
@[simp] theorem State.setHalves_l (s : State) (h : Halves) : (s.setHalves h).l = h.l := rfl
@[simp] theorem State.setHalves_r (s : State) (h : Halves) : (s.setHalves h).r = h.r := rfl
@[simp] theorem State.setHalves_dbuf (s : State) (h : Halves) : (s.setHalves h).dbuf = s.dbuf := rfl
@[simp] theorem State.setHalves_cfg (s : State) (h : Halves) : (s.setHalves h).cfg = s.cfg := rfl
@[simp] theorem State.setHalves_port (s : State) (h : Halves) : (s.setHalves h).port = s.port := rfl
@[simp] theorem State.setHalves_events (s : State) (h : Halves) : (s.setHalves h).events = s.events := rfl
@[simp] theorem State.setHalves_draws (s : State) (h : Halves) : (s.setHalves h).draws = s.draws := rfl

/-! `putHalves`: rule R179. -/

@[simp] theorem State.putHalves_cstate (s : State) (h : Halves) : (s.putHalves h).cstate = s.cstate := rfl
@[simp] theorem State.putHalves_pend (s : State) (h : Halves) : (s.putHalves h).pend = s.pend := rfl
@[simp] theorem State.putHalves_spbv (s : State) (h : Halves) : (s.putHalves h).spbv = s.spbv := rfl
@[simp] theorem State.putHalves_keyv (s : State) (h : Halves) : (s.putHalves h).keyv = s.keyv := rfl
@[simp] theorem State.putHalves_done (s : State) (h : Halves) : (s.putHalves h).done = s.done := rfl
@[simp] theorem State.putHalves_ovr (s : State) (h : Halves) : (s.putHalves h).ovr = s.ovr := rfl
@[simp] theorem State.putHalves_err (s : State) (h : Halves) : (s.putHalves h).err = s.err := rfl
@[simp] theorem State.putHalves_doneie (s : State) (h : Halves) : (s.putHalves h).doneie = s.doneie := rfl
@[simp] theorem State.putHalves_arg0 (s : State) (h : Halves) : (s.putHalves h).arg0 = s.arg0 := rfl
@[simp] theorem State.putHalves_arg1 (s : State) (h : Halves) : (s.putHalves h).arg1 = s.arg1 := rfl
@[simp] theorem State.putHalves_arg2 (s : State) (h : Halves) : (s.putHalves h).arg2 = s.arg2 := rfl
@[simp] theorem State.putHalves_result (s : State) (h : Halves) : (s.putHalves h).result = s.result := rfl
@[simp] theorem State.putHalves_data0 (s : State) (h : Halves) : (s.putHalves h).data0 = h.r := rfl
@[simp] theorem State.putHalves_data1 (s : State) (h : Halves) : (s.putHalves h).data1 = h.l := rfl
@[simp] theorem State.putHalves_level (s : State) (h : Halves) : (s.putHalves h).level = s.level := rfl
@[simp] theorem State.putHalves_rounds (s : State) (h : Halves) : (s.putHalves h).rounds = s.rounds := rfl
@[simp] theorem State.putHalves_keysize (s : State) (h : Halves) : (s.putHalves h).keysize = s.keysize := rfl
@[simp] theorem State.putHalves_kbw (s : State) (h : Halves) : (s.putHalves h).kbw = s.kbw := rfl
@[simp] theorem State.putHalves_ks (s : State) (h : Halves) : (s.putHalves h).ks = s.ks := rfl
@[simp] theorem State.putHalves_sp (s : State) (h : Halves) : (s.putHalves h).sp = s.sp := rfl
@[simp] theorem State.putHalves_l (s : State) (h : Halves) : (s.putHalves h).l = h.l := rfl
@[simp] theorem State.putHalves_r (s : State) (h : Halves) : (s.putHalves h).r = h.r := rfl
@[simp] theorem State.putHalves_dbuf (s : State) (h : Halves) : (s.putHalves h).dbuf = s.dbuf := rfl
@[simp] theorem State.putHalves_cfg (s : State) (h : Halves) : (s.putHalves h).cfg = s.cfg := rfl
@[simp] theorem State.putHalves_port (s : State) (h : Halves) : (s.putHalves h).port = s.port := rfl
@[simp] theorem State.putHalves_events (s : State) (h : Halves) : (s.putHalves h).events = s.events := rfl
@[simp] theorem State.putHalves_draws (s : State) (h : Halves) : (s.putHalves h).draws = s.draws := rfl

/-! `putBlock`: rules R175, R193. -/

@[simp] theorem State.putBlock_cstate (s : State) (dst k : Nat) (h : Halves) : (s.putBlock dst k h).cstate = s.cstate := rfl
@[simp] theorem State.putBlock_pend (s : State) (dst k : Nat) (h : Halves) : (s.putBlock dst k h).pend = s.pend := rfl
@[simp] theorem State.putBlock_spbv (s : State) (dst k : Nat) (h : Halves) : (s.putBlock dst k h).spbv = s.spbv := rfl
@[simp] theorem State.putBlock_keyv (s : State) (dst k : Nat) (h : Halves) : (s.putBlock dst k h).keyv = s.keyv := rfl
@[simp] theorem State.putBlock_done (s : State) (dst k : Nat) (h : Halves) : (s.putBlock dst k h).done = s.done := rfl
@[simp] theorem State.putBlock_ovr (s : State) (dst k : Nat) (h : Halves) : (s.putBlock dst k h).ovr = s.ovr := rfl
@[simp] theorem State.putBlock_err (s : State) (dst k : Nat) (h : Halves) : (s.putBlock dst k h).err = s.err := rfl
@[simp] theorem State.putBlock_doneie (s : State) (dst k : Nat) (h : Halves) : (s.putBlock dst k h).doneie = s.doneie := rfl
@[simp] theorem State.putBlock_arg0 (s : State) (dst k : Nat) (h : Halves) : (s.putBlock dst k h).arg0 = s.arg0 := rfl
@[simp] theorem State.putBlock_arg1 (s : State) (dst k : Nat) (h : Halves) : (s.putBlock dst k h).arg1 = s.arg1 := rfl
@[simp] theorem State.putBlock_arg2 (s : State) (dst k : Nat) (h : Halves) : (s.putBlock dst k h).arg2 = s.arg2 := rfl
@[simp] theorem State.putBlock_result (s : State) (dst k : Nat) (h : Halves) : (s.putBlock dst k h).result = s.result := rfl
@[simp] theorem State.putBlock_data0 (s : State) (dst k : Nat) (h : Halves) : (s.putBlock dst k h).data0 = s.data0 := rfl
@[simp] theorem State.putBlock_data1 (s : State) (dst k : Nat) (h : Halves) : (s.putBlock dst k h).data1 = s.data1 := rfl
@[simp] theorem State.putBlock_level (s : State) (dst k : Nat) (h : Halves) : (s.putBlock dst k h).level = s.level := rfl
@[simp] theorem State.putBlock_rounds (s : State) (dst k : Nat) (h : Halves) : (s.putBlock dst k h).rounds = s.rounds := rfl
@[simp] theorem State.putBlock_keysize (s : State) (dst k : Nat) (h : Halves) : (s.putBlock dst k h).keysize = s.keysize := rfl
@[simp] theorem State.putBlock_kbw (s : State) (dst k : Nat) (h : Halves) : (s.putBlock dst k h).kbw = s.kbw := rfl
@[simp] theorem State.putBlock_ks (s : State) (dst k : Nat) (h : Halves) : (s.putBlock dst k h).ks = s.ks := rfl
@[simp] theorem State.putBlock_sp (s : State) (dst k : Nat) (h : Halves) : (s.putBlock dst k h).sp = s.sp := rfl
@[simp] theorem State.putBlock_l (s : State) (dst k : Nat) (h : Halves) : (s.putBlock dst k h).l = h.l := rfl
@[simp] theorem State.putBlock_r (s : State) (dst k : Nat) (h : Halves) : (s.putBlock dst k h).r = h.r := rfl
@[simp] theorem State.putBlock_dbuf (s : State) (dst k : Nat) (h : Halves) : (s.putBlock dst k h).dbuf = s.dbuf.writeBytes (dst + 8 * k) (storeBlock h) := rfl
@[simp] theorem State.putBlock_cfg (s : State) (dst k : Nat) (h : Halves) : (s.putBlock dst k h).cfg = s.cfg := rfl
@[simp] theorem State.putBlock_port (s : State) (dst k : Nat) (h : Halves) : (s.putBlock dst k h).port = s.port := rfl
@[simp] theorem State.putBlock_events (s : State) (dst k : Nat) (h : Halves) : (s.putBlock dst k h).events = s.events := rfl
@[simp] theorem State.putBlock_draws (s : State) (dst k : Nat) (h : Halves) : (s.putBlock dst k h).draws = s.draws := rfl

/-! `spBuild`: rule R132. -/

@[simp] theorem State.spBuild_cstate (s : State) : (s.spBuild).cstate = s.cstate := rfl
@[simp] theorem State.spBuild_pend (s : State) : (s.spBuild).pend = s.pend := rfl
@[simp] theorem State.spBuild_spbv (s : State) : (s.spBuild).spbv = true := rfl
@[simp] theorem State.spBuild_keyv (s : State) : (s.spBuild).keyv = s.keyv := rfl
@[simp] theorem State.spBuild_done (s : State) : (s.spBuild).done = s.done := rfl
@[simp] theorem State.spBuild_ovr (s : State) : (s.spBuild).ovr = s.ovr := rfl
@[simp] theorem State.spBuild_err (s : State) : (s.spBuild).err = s.err := rfl
@[simp] theorem State.spBuild_doneie (s : State) : (s.spBuild).doneie = s.doneie := rfl
@[simp] theorem State.spBuild_arg0 (s : State) : (s.spBuild).arg0 = s.arg0 := rfl
@[simp] theorem State.spBuild_arg1 (s : State) : (s.spBuild).arg1 = s.arg1 := rfl
@[simp] theorem State.spBuild_arg2 (s : State) : (s.spBuild).arg2 = s.arg2 := rfl
@[simp] theorem State.spBuild_result (s : State) : (s.spBuild).result = s.result := rfl
@[simp] theorem State.spBuild_data0 (s : State) : (s.spBuild).data0 = s.data0 := rfl
@[simp] theorem State.spBuild_data1 (s : State) : (s.spBuild).data1 = s.data1 := rfl
@[simp] theorem State.spBuild_level (s : State) : (s.spBuild).level = s.level := rfl
@[simp] theorem State.spBuild_rounds (s : State) : (s.spBuild).rounds = s.rounds := rfl
@[simp] theorem State.spBuild_keysize (s : State) : (s.spBuild).keysize = s.keysize := rfl
@[simp] theorem State.spBuild_kbw (s : State) : (s.spBuild).kbw = s.kbw := rfl
@[simp] theorem State.spBuild_ks (s : State) : (s.spBuild).ks = s.ks := rfl
@[simp] theorem State.spBuild_sp (s : State) : (s.spBuild).sp = spTables := rfl
@[simp] theorem State.spBuild_l (s : State) : (s.spBuild).l = s.l := rfl
@[simp] theorem State.spBuild_r (s : State) : (s.spBuild).r = s.r := rfl
@[simp] theorem State.spBuild_dbuf (s : State) : (s.spBuild).dbuf = s.dbuf := rfl
@[simp] theorem State.spBuild_cfg (s : State) : (s.spBuild).cfg = s.cfg := rfl
@[simp] theorem State.spBuild_port (s : State) : (s.spBuild).port = s.port := rfl
@[simp] theorem State.spBuild_events (s : State) : (s.spBuild).events = s.events := rfl
@[simp] theorem State.spBuild_draws (s : State) : (s.spBuild).draws = s.draws := rfl

/-! `writeStatus`: rule R25. -/

@[simp] theorem State.writeStatus_cstate (s : State) (w : Word) : (s.writeStatus w).cstate = s.cstate := rfl
@[simp] theorem State.writeStatus_pend (s : State) (w : Word) : (s.writeStatus w).pend = s.pend := rfl
@[simp] theorem State.writeStatus_spbv (s : State) (w : Word) : (s.writeStatus w).spbv = s.spbv := rfl
@[simp] theorem State.writeStatus_keyv (s : State) (w : Word) : (s.writeStatus w).keyv = s.keyv := rfl
@[simp] theorem State.writeStatus_done (s : State) (w : Word) : (s.writeStatus w).done = (s.done && !w.getLsbD 3) := rfl
@[simp] theorem State.writeStatus_ovr (s : State) (w : Word) : (s.writeStatus w).ovr = (s.ovr && !w.getLsbD 4) := rfl
@[simp] theorem State.writeStatus_err (s : State) (w : Word) : (s.writeStatus w).err = s.err := rfl
@[simp] theorem State.writeStatus_doneie (s : State) (w : Word) : (s.writeStatus w).doneie = s.doneie := rfl
@[simp] theorem State.writeStatus_arg0 (s : State) (w : Word) : (s.writeStatus w).arg0 = s.arg0 := rfl
@[simp] theorem State.writeStatus_arg1 (s : State) (w : Word) : (s.writeStatus w).arg1 = s.arg1 := rfl
@[simp] theorem State.writeStatus_arg2 (s : State) (w : Word) : (s.writeStatus w).arg2 = s.arg2 := rfl
@[simp] theorem State.writeStatus_result (s : State) (w : Word) : (s.writeStatus w).result = s.result := rfl
@[simp] theorem State.writeStatus_data0 (s : State) (w : Word) : (s.writeStatus w).data0 = s.data0 := rfl
@[simp] theorem State.writeStatus_data1 (s : State) (w : Word) : (s.writeStatus w).data1 = s.data1 := rfl
@[simp] theorem State.writeStatus_level (s : State) (w : Word) : (s.writeStatus w).level = s.level := rfl
@[simp] theorem State.writeStatus_rounds (s : State) (w : Word) : (s.writeStatus w).rounds = s.rounds := rfl
@[simp] theorem State.writeStatus_keysize (s : State) (w : Word) : (s.writeStatus w).keysize = s.keysize := rfl
@[simp] theorem State.writeStatus_kbw (s : State) (w : Word) : (s.writeStatus w).kbw = s.kbw := rfl
@[simp] theorem State.writeStatus_ks (s : State) (w : Word) : (s.writeStatus w).ks = s.ks := rfl
@[simp] theorem State.writeStatus_sp (s : State) (w : Word) : (s.writeStatus w).sp = s.sp := rfl
@[simp] theorem State.writeStatus_l (s : State) (w : Word) : (s.writeStatus w).l = s.l := rfl
@[simp] theorem State.writeStatus_r (s : State) (w : Word) : (s.writeStatus w).r = s.r := rfl
@[simp] theorem State.writeStatus_dbuf (s : State) (w : Word) : (s.writeStatus w).dbuf = s.dbuf := rfl
@[simp] theorem State.writeStatus_cfg (s : State) (w : Word) : (s.writeStatus w).cfg = s.cfg := rfl
@[simp] theorem State.writeStatus_port (s : State) (w : Word) : (s.writeStatus w).port = s.port := rfl
@[simp] theorem State.writeStatus_events (s : State) (w : Word) : (s.writeStatus w).events = s.events := rfl
@[simp] theorem State.writeStatus_draws (s : State) (w : Word) : (s.writeStatus w).draws = s.draws := rfl

/-! `writeInten`: rule R32. -/

@[simp] theorem State.writeInten_cstate (s : State) (w : Word) : (s.writeInten w).cstate = s.cstate := rfl
@[simp] theorem State.writeInten_pend (s : State) (w : Word) : (s.writeInten w).pend = s.pend := rfl
@[simp] theorem State.writeInten_spbv (s : State) (w : Word) : (s.writeInten w).spbv = s.spbv := rfl
@[simp] theorem State.writeInten_keyv (s : State) (w : Word) : (s.writeInten w).keyv = s.keyv := rfl
@[simp] theorem State.writeInten_done (s : State) (w : Word) : (s.writeInten w).done = s.done := rfl
@[simp] theorem State.writeInten_ovr (s : State) (w : Word) : (s.writeInten w).ovr = s.ovr := rfl
@[simp] theorem State.writeInten_err (s : State) (w : Word) : (s.writeInten w).err = s.err := rfl
@[simp] theorem State.writeInten_doneie (s : State) (w : Word) : (s.writeInten w).doneie = w.getLsbD 0 := rfl
@[simp] theorem State.writeInten_arg0 (s : State) (w : Word) : (s.writeInten w).arg0 = s.arg0 := rfl
@[simp] theorem State.writeInten_arg1 (s : State) (w : Word) : (s.writeInten w).arg1 = s.arg1 := rfl
@[simp] theorem State.writeInten_arg2 (s : State) (w : Word) : (s.writeInten w).arg2 = s.arg2 := rfl
@[simp] theorem State.writeInten_result (s : State) (w : Word) : (s.writeInten w).result = s.result := rfl
@[simp] theorem State.writeInten_data0 (s : State) (w : Word) : (s.writeInten w).data0 = s.data0 := rfl
@[simp] theorem State.writeInten_data1 (s : State) (w : Word) : (s.writeInten w).data1 = s.data1 := rfl
@[simp] theorem State.writeInten_level (s : State) (w : Word) : (s.writeInten w).level = s.level := rfl
@[simp] theorem State.writeInten_rounds (s : State) (w : Word) : (s.writeInten w).rounds = s.rounds := rfl
@[simp] theorem State.writeInten_keysize (s : State) (w : Word) : (s.writeInten w).keysize = s.keysize := rfl
@[simp] theorem State.writeInten_kbw (s : State) (w : Word) : (s.writeInten w).kbw = s.kbw := rfl
@[simp] theorem State.writeInten_ks (s : State) (w : Word) : (s.writeInten w).ks = s.ks := rfl
@[simp] theorem State.writeInten_sp (s : State) (w : Word) : (s.writeInten w).sp = s.sp := rfl
@[simp] theorem State.writeInten_l (s : State) (w : Word) : (s.writeInten w).l = s.l := rfl
@[simp] theorem State.writeInten_r (s : State) (w : Word) : (s.writeInten w).r = s.r := rfl
@[simp] theorem State.writeInten_dbuf (s : State) (w : Word) : (s.writeInten w).dbuf = s.dbuf := rfl
@[simp] theorem State.writeInten_cfg (s : State) (w : Word) : (s.writeInten w).cfg = s.cfg := rfl
@[simp] theorem State.writeInten_port (s : State) (w : Word) : (s.writeInten w).port = s.port := rfl
@[simp] theorem State.writeInten_events (s : State) (w : Word) : (s.writeInten w).events = s.events := rfl
@[simp] theorem State.writeInten_draws (s : State) (w : Word) : (s.writeInten w).draws = s.draws := rfl

/-! `overrun`: rule R30. -/

@[simp] theorem State.overrun_cstate (s : State) : (s.overrun).cstate = s.cstate := rfl
@[simp] theorem State.overrun_pend (s : State) : (s.overrun).pend = s.pend := rfl
@[simp] theorem State.overrun_spbv (s : State) : (s.overrun).spbv = s.spbv := rfl
@[simp] theorem State.overrun_keyv (s : State) : (s.overrun).keyv = s.keyv := rfl
@[simp] theorem State.overrun_done (s : State) : (s.overrun).done = s.done := rfl
@[simp] theorem State.overrun_ovr (s : State) : (s.overrun).ovr = true := rfl
@[simp] theorem State.overrun_err (s : State) : (s.overrun).err = s.err := rfl
@[simp] theorem State.overrun_doneie (s : State) : (s.overrun).doneie = s.doneie := rfl
@[simp] theorem State.overrun_arg0 (s : State) : (s.overrun).arg0 = s.arg0 := rfl
@[simp] theorem State.overrun_arg1 (s : State) : (s.overrun).arg1 = s.arg1 := rfl
@[simp] theorem State.overrun_arg2 (s : State) : (s.overrun).arg2 = s.arg2 := rfl
@[simp] theorem State.overrun_result (s : State) : (s.overrun).result = s.result := rfl
@[simp] theorem State.overrun_data0 (s : State) : (s.overrun).data0 = s.data0 := rfl
@[simp] theorem State.overrun_data1 (s : State) : (s.overrun).data1 = s.data1 := rfl
@[simp] theorem State.overrun_level (s : State) : (s.overrun).level = s.level := rfl
@[simp] theorem State.overrun_rounds (s : State) : (s.overrun).rounds = s.rounds := rfl
@[simp] theorem State.overrun_keysize (s : State) : (s.overrun).keysize = s.keysize := rfl
@[simp] theorem State.overrun_kbw (s : State) : (s.overrun).kbw = s.kbw := rfl
@[simp] theorem State.overrun_ks (s : State) : (s.overrun).ks = s.ks := rfl
@[simp] theorem State.overrun_sp (s : State) : (s.overrun).sp = s.sp := rfl
@[simp] theorem State.overrun_l (s : State) : (s.overrun).l = s.l := rfl
@[simp] theorem State.overrun_r (s : State) : (s.overrun).r = s.r := rfl
@[simp] theorem State.overrun_dbuf (s : State) : (s.overrun).dbuf = s.dbuf := rfl
@[simp] theorem State.overrun_cfg (s : State) : (s.overrun).cfg = s.cfg := rfl
@[simp] theorem State.overrun_port (s : State) : (s.overrun).port = s.port := rfl
@[simp] theorem State.overrun_events (s : State) : (s.overrun).events = s.events := rfl
@[simp] theorem State.overrun_draws (s : State) : (s.overrun).draws = s.draws := rfl

/-! `respond`: the host port. -/

@[simp] theorem State.respond_cstate (s : State) (p : Response) : (s.respond p).cstate = s.cstate := rfl
@[simp] theorem State.respond_pend (s : State) (p : Response) : (s.respond p).pend = s.pend := rfl
@[simp] theorem State.respond_spbv (s : State) (p : Response) : (s.respond p).spbv = s.spbv := rfl
@[simp] theorem State.respond_keyv (s : State) (p : Response) : (s.respond p).keyv = s.keyv := rfl
@[simp] theorem State.respond_done (s : State) (p : Response) : (s.respond p).done = s.done := rfl
@[simp] theorem State.respond_ovr (s : State) (p : Response) : (s.respond p).ovr = s.ovr := rfl
@[simp] theorem State.respond_err (s : State) (p : Response) : (s.respond p).err = s.err := rfl
@[simp] theorem State.respond_doneie (s : State) (p : Response) : (s.respond p).doneie = s.doneie := rfl
@[simp] theorem State.respond_arg0 (s : State) (p : Response) : (s.respond p).arg0 = s.arg0 := rfl
@[simp] theorem State.respond_arg1 (s : State) (p : Response) : (s.respond p).arg1 = s.arg1 := rfl
@[simp] theorem State.respond_arg2 (s : State) (p : Response) : (s.respond p).arg2 = s.arg2 := rfl
@[simp] theorem State.respond_result (s : State) (p : Response) : (s.respond p).result = s.result := rfl
@[simp] theorem State.respond_data0 (s : State) (p : Response) : (s.respond p).data0 = s.data0 := rfl
@[simp] theorem State.respond_data1 (s : State) (p : Response) : (s.respond p).data1 = s.data1 := rfl
@[simp] theorem State.respond_level (s : State) (p : Response) : (s.respond p).level = s.level := rfl
@[simp] theorem State.respond_rounds (s : State) (p : Response) : (s.respond p).rounds = s.rounds := rfl
@[simp] theorem State.respond_keysize (s : State) (p : Response) : (s.respond p).keysize = s.keysize := rfl
@[simp] theorem State.respond_kbw (s : State) (p : Response) : (s.respond p).kbw = s.kbw := rfl
@[simp] theorem State.respond_ks (s : State) (p : Response) : (s.respond p).ks = s.ks := rfl
@[simp] theorem State.respond_sp (s : State) (p : Response) : (s.respond p).sp = s.sp := rfl
@[simp] theorem State.respond_l (s : State) (p : Response) : (s.respond p).l = s.l := rfl
@[simp] theorem State.respond_r (s : State) (p : Response) : (s.respond p).r = s.r := rfl
@[simp] theorem State.respond_dbuf (s : State) (p : Response) : (s.respond p).dbuf = s.dbuf := rfl
@[simp] theorem State.respond_cfg (s : State) (p : Response) : (s.respond p).cfg = s.cfg := rfl
@[simp] theorem State.respond_port (s : State) (p : Response) : (s.respond p).port = p := rfl
@[simp] theorem State.respond_events (s : State) (p : Response) : (s.respond p).events = s.events := rfl
@[simp] theorem State.respond_draws (s : State) (p : Response) : (s.respond p).draws = s.draws := rfl

/-! `resetWith`: rule R48. -/

@[simp] theorem State.resetWith_cstate (c : Params) (es : List Event) (n : Nat) : (State.resetWith c es n).cstate = .idle := rfl
@[simp] theorem State.resetWith_pend (c : Params) (es : List Event) (n : Nat) : (State.resetWith c es n).pend = 0 := rfl
@[simp] theorem State.resetWith_spbv (c : Params) (es : List Event) (n : Nat) : (State.resetWith c es n).spbv = false := rfl
@[simp] theorem State.resetWith_keyv (c : Params) (es : List Event) (n : Nat) : (State.resetWith c es n).keyv = false := rfl
@[simp] theorem State.resetWith_done (c : Params) (es : List Event) (n : Nat) : (State.resetWith c es n).done = false := rfl
@[simp] theorem State.resetWith_ovr (c : Params) (es : List Event) (n : Nat) : (State.resetWith c es n).ovr = false := rfl
@[simp] theorem State.resetWith_err (c : Params) (es : List Event) (n : Nat) : (State.resetWith c es n).err = 0 := rfl
@[simp] theorem State.resetWith_doneie (c : Params) (es : List Event) (n : Nat) : (State.resetWith c es n).doneie = false := rfl
@[simp] theorem State.resetWith_arg0 (c : Params) (es : List Event) (n : Nat) : (State.resetWith c es n).arg0 = 0 := rfl
@[simp] theorem State.resetWith_arg1 (c : Params) (es : List Event) (n : Nat) : (State.resetWith c es n).arg1 = 0 := rfl
@[simp] theorem State.resetWith_arg2 (c : Params) (es : List Event) (n : Nat) : (State.resetWith c es n).arg2 = 0 := rfl
@[simp] theorem State.resetWith_result (c : Params) (es : List Event) (n : Nat) : (State.resetWith c es n).result = 0 := rfl
@[simp] theorem State.resetWith_data0 (c : Params) (es : List Event) (n : Nat) : (State.resetWith c es n).data0 = 0 := rfl
@[simp] theorem State.resetWith_data1 (c : Params) (es : List Event) (n : Nat) : (State.resetWith c es n).data1 = 0 := rfl
@[simp] theorem State.resetWith_level (c : Params) (es : List Event) (n : Nat) : (State.resetWith c es n).level = 0 := rfl
@[simp] theorem State.resetWith_rounds (c : Params) (es : List Event) (n : Nat) : (State.resetWith c es n).rounds = 0 := rfl
@[simp] theorem State.resetWith_keysize (c : Params) (es : List Event) (n : Nat) : (State.resetWith c es n).keysize = 0 := rfl
@[simp] theorem State.resetWith_kbw (c : Params) (es : List Event) (n : Nat) : (State.resetWith c es n).kbw = ⟨0, 0, 0, 0⟩ := rfl
@[simp] theorem State.resetWith_ks (c : Params) (es : List Event) (n : Nat) : (State.resetWith c es n).ks = List.replicate c.ksEntries ⟨0, 0, 0⟩ := rfl
@[simp] theorem State.resetWith_sp (c : Params) (es : List Event) (n : Nat) : (State.resetWith c es n).sp = spAtReset := rfl
@[simp] theorem State.resetWith_l (c : Params) (es : List Event) (n : Nat) : (State.resetWith c es n).l = 0 := rfl
@[simp] theorem State.resetWith_r (c : Params) (es : List Event) (n : Nat) : (State.resetWith c es n).r = 0 := rfl
@[simp] theorem State.resetWith_dbuf (c : Params) (es : List Event) (n : Nat) : (State.resetWith c es n).dbuf = [] := rfl
@[simp] theorem State.resetWith_cfg (c : Params) (es : List Event) (n : Nat) : (State.resetWith c es n).cfg = c := rfl
@[simp] theorem State.resetWith_port (c : Params) (es : List Event) (n : Nat) : (State.resetWith c es n).port = .none := rfl
@[simp] theorem State.resetWith_events (c : Params) (es : List Event) (n : Nat) : (State.resetWith c es n).events = es := rfl
@[simp] theorem State.resetWith_draws (c : Params) (es : List Event) (n : Nat) : (State.resetWith c es n).draws = n := rfl

/-! `resetEvent`: rules R260, R262. -/

@[simp] theorem State.resetEvent_cstate (s : State) : s.resetEvent.cstate = .idle := rfl
@[simp] theorem State.resetEvent_pend (s : State) : s.resetEvent.pend = 0 := rfl
@[simp] theorem State.resetEvent_spbv (s : State) : s.resetEvent.spbv = false := rfl
@[simp] theorem State.resetEvent_keyv (s : State) : s.resetEvent.keyv = false := rfl
@[simp] theorem State.resetEvent_done (s : State) : s.resetEvent.done = false := rfl
@[simp] theorem State.resetEvent_ovr (s : State) : s.resetEvent.ovr = false := rfl
@[simp] theorem State.resetEvent_err (s : State) : s.resetEvent.err = 0 := rfl
@[simp] theorem State.resetEvent_doneie (s : State) : s.resetEvent.doneie = false := rfl
@[simp] theorem State.resetEvent_arg0 (s : State) : s.resetEvent.arg0 = 0 := rfl
@[simp] theorem State.resetEvent_arg1 (s : State) : s.resetEvent.arg1 = 0 := rfl
@[simp] theorem State.resetEvent_arg2 (s : State) : s.resetEvent.arg2 = 0 := rfl
@[simp] theorem State.resetEvent_result (s : State) : s.resetEvent.result = 0 := rfl
@[simp] theorem State.resetEvent_data0 (s : State) : s.resetEvent.data0 = 0 := rfl
@[simp] theorem State.resetEvent_data1 (s : State) : s.resetEvent.data1 = 0 := rfl
@[simp] theorem State.resetEvent_level (s : State) : s.resetEvent.level = 0 := rfl
@[simp] theorem State.resetEvent_rounds (s : State) : s.resetEvent.rounds = 0 := rfl
@[simp] theorem State.resetEvent_keysize (s : State) : s.resetEvent.keysize = 0 := rfl
@[simp] theorem State.resetEvent_kbw (s : State) : s.resetEvent.kbw = ⟨0, 0, 0, 0⟩ := rfl
@[simp] theorem State.resetEvent_ks (s : State) : s.resetEvent.ks = List.replicate s.cfg.ksEntries ⟨0, 0, 0⟩ := rfl
@[simp] theorem State.resetEvent_sp (s : State) : s.resetEvent.sp = spAtReset := rfl
@[simp] theorem State.resetEvent_l (s : State) : s.resetEvent.l = 0 := rfl
@[simp] theorem State.resetEvent_r (s : State) : s.resetEvent.r = 0 := rfl
@[simp] theorem State.resetEvent_dbuf (s : State) : s.resetEvent.dbuf = s.resetDbuf := rfl
@[simp] theorem State.resetEvent_cfg (s : State) : s.resetEvent.cfg = s.cfg := rfl
@[simp] theorem State.resetEvent_port (s : State) : s.resetEvent.port = .none := rfl
@[simp] theorem State.resetEvent_events (s : State) : s.resetEvent.events = s.events := rfl
@[simp] theorem State.resetEvent_draws (s : State) : s.resetEvent.draws = s.draws := rfl

/-! Reading DBUF looks at `dbuf` and `draws` alone. -/

theorem State.dbufByte_congr {s t : State} (hd : t.dbuf = s.dbuf) (hn : t.draws = s.draws) (a : Nat) :
    t.dbufByte a = s.dbufByte a := by
  simp [State.dbufByte, hd, hn]

@[simp] theorem State.complete_dbufByte (s : State) (e : ErrCode) (a : Nat) :
    (s.complete e).dbufByte a = s.dbufByte a := rfl

@[simp] theorem State.setHalves_dbufByte (s : State) (h : Halves) (a : Nat) :
    (s.setHalves h).dbufByte a = s.dbufByte a := rfl

@[simp] theorem State.putHalves_dbufByte (s : State) (h : Halves) (a : Nat) :
    (s.putHalves h).dbufByte a = s.dbufByte a := rfl

/-! The block core looks at SP, KS and ROUNDS alone. -/

theorem State.encHalves_congr {s t : State} (h1 : t.sp = s.sp) (h2 : t.ks = s.ks) (h3 : t.rounds = s.rounds)
    (h : Halves) : t.encHalves h = s.encHalves h := by
  simp [State.encHalves, h1, h2, h3]

theorem State.decHalves_congr {s t : State} (h1 : t.sp = s.sp) (h2 : t.ks = s.ks) (h3 : t.rounds = s.rounds)
    (h : Halves) : t.decHalves h = s.decHalves h := by
  simp [State.decHalves, h1, h2, h3]

end Sys2Proof.Machine
end

