-- ==== Sys2Proof/Laws/Bytes.lean ====
section
/-! SUPPORT. Byte order: a big-endian word and its four bytes determine each other, and so do a block and its two
halves. -/

namespace Sys2Proof.Machine

/-- `BE32` undoes `bytesBE32` (R8). -/
@[simp] theorem be32_bytesBE32 (w : Word) :
    be32 (w.extractLsb' 24 8) (w.extractLsb' 16 8) (w.extractLsb' 8 8) (w.extractLsb' 0 8) = w := by
  apply BitVec.eq_of_getLsbD_eq
  intro i hi
  simp only [be32, BitVec.getLsbD_append, BitVec.getLsbD_extractLsb']
  interval_cases i <;> simp

/-- `bytesBE32` undoes `BE32` (R8). -/
@[simp] theorem bytesBE32_be32 (a b c d : Byte) : bytesBE32 (be32 a b c d) = [a, b, c, d] := by
  simp only [bytesBE32, be32, List.cons.injEq, and_true]
  refine ⟨?_, ?_, ?_, ?_⟩ <;>
  · apply BitVec.eq_of_getLsbD_eq
    intro i hi
    simp only [BitVec.getLsbD_extractLsb', BitVec.getLsbD_append]
    interval_cases i <;> simp

@[simp] theorem bytesBE32_length (w : Word) : (bytesBE32 w).length = 4 := rfl

@[simp] theorem storeBlock_length (h : Halves) : (storeBlock h).length = 8 := rfl

/-- A stored block loads with its halves exchanged (R174, R175). -/
@[simp] theorem loadBlock_storeBlock (h : Halves) : loadBlock (storeBlock h) = ⟨h.r, h.l⟩ := by
  simp [loadBlock, storeBlock, byteAt, bytesBE32]

/-- A loaded block of 8 bytes stores back with its halves exchanged (R174, R175). -/
theorem storeBlock_loadBlock {b : List Byte} (h : b.length = 8) :
    storeBlock ⟨(loadBlock b).r, (loadBlock b).l⟩ = b := by
  match b, h with
  | [b0, b1, b2, b3, b4, b5, b6, b7], _ => simp [loadBlock, storeBlock, byteAt]

/-- Two sequences of 8 bytes are equal where their bytes are. -/
theorem eq_of_byteAt {b c : List Byte} (hb : b.length = 8) (hc : c.length = 8)
    (h : ∀ j < 8, byteAt b j = byteAt c j) : b = c := by
  apply List.ext_getElem (hb.trans hc.symm)
  intro j h1 h2
  have := h j (hb ▸ h1)
  simpa [byteAt, List.getD, h1, h2] using this

end Sys2Proof.Machine
end

