-- ==== Sys2Proof/Laws/Block.lean ====
section
/-! SUPPORT. The Feistel network: one iteration, run with its two subkeys exchanged on the exchanged halves, undoes
itself, and the two traversals one iteration at a time. -/

namespace Sys2Proof.Machine

/-- The halves exchanged, as storing a block and loading it again does (R174, R175). -/
def Halves.swap (h : Halves) : Halves := ⟨h.r, h.l⟩

@[simp] theorem Halves.swap_swap (h : Halves) : h.swap.swap = h := rfl

@[simp] theorem Halves.swap_mk (a b : Word) : Halves.swap ⟨a, b⟩ = ⟨b, a⟩ := rfl

/-- One iteration undone (R178). -/
theorem roundPair_undo (sp : List (List Word)) (ks : List Subkey) (i j : Nat) (h : Halves) :
    roundPair sp ks j i (roundPair sp ks i j h).swap = h.swap := by
  simp [roundPair, Halves.swap]

/-- The first c iterations of `EncryptBlock` (R176). -/
def encAfterRounds (sp : List (List Word)) (ks : List Subkey) (c : Nat) (h : Halves) : Halves :=
  (List.range c).foldl (fun h k => roundPair sp ks (2 * k) (2 * k + 1) h) h

/-- The first c iterations of `DecryptBlock` over `rounds` subkeys (R177). -/
def decAfterRounds (sp : List (List Word)) (ks : List Subkey) (rounds c : Nat) (h : Halves) : Halves :=
  (List.range c).foldl (fun h k => roundPair sp ks (rounds - 1 - 2 * k) (rounds - 1 - 2 * k - 1) h) h

theorem encAfterRounds_succ (sp : List (List Word)) (ks : List Subkey) (c : Nat) (h : Halves) :
    encAfterRounds sp ks (c + 1) h = roundPair sp ks (2 * c) (2 * c + 1) (encAfterRounds sp ks c h) := by
  simp [encAfterRounds, List.range_succ]

theorem decAfterRounds_succ (sp : List (List Word)) (ks : List Subkey) (rounds c : Nat) (h : Halves) :
    decAfterRounds sp ks rounds (c + 1) h =
      roundPair sp ks (rounds - 1 - 2 * c) (rounds - 1 - 2 * c - 1) (decAfterRounds sp ks rounds c h) := by
  simp [decAfterRounds, List.range_succ]

theorem encryptHalves_eq (sp : List (List Word)) (ks : List Subkey) (rounds : Nat) (h : Halves) :
    encryptHalves sp ks rounds h = encAfterRounds sp ks (rounds / 2) h := rfl

theorem decryptHalves_eq (sp : List (List Word)) (ks : List Subkey) (rounds : Nat) (h : Halves) :
    decryptHalves sp ks rounds h = decAfterRounds sp ks rounds (rounds / 2) h := rfl

/-- A block is encrypted to 8 bytes, loaded again with its halves exchanged. -/
theorem State.loadBlock_encryptBlock (s : State) (b : List Byte) :
    loadBlock (s.encryptBlock b) = (s.encHalves (loadBlock b)).swap := by
  simp [State.encryptBlock, Halves.swap]

theorem State.loadBlock_decryptBlock (s : State) (b : List Byte) :
    loadBlock (s.decryptBlock b) = (s.decHalves (loadBlock b)).swap := by
  simp [State.decryptBlock, Halves.swap]

@[simp] theorem State.encryptBlock_length (s : State) (b : List Byte) : (s.encryptBlock b).length = 8 := rfl

@[simp] theorem State.decryptBlock_length (s : State) (b : List Byte) : (s.decryptBlock b).length = 8 := rfl

/-- A block looks at its first eight bytes alone. -/
theorem loadBlock_congr {b c : List Byte} (h : ∀ j < 8, byteAt b j = byteAt c j) : loadBlock b = loadBlock c := by
  simp [loadBlock, h 0, h 1, h 2, h 3, h 4, h 5, h 6, h 7]

end Sys2Proof.Machine
end

