-- ==== Sys2Proof/Laws/Bus.lean ====
section
/-! SUPPORT. What one host access can do to the state, said once. -/

namespace Sys2Proof.Machine

/-- What a place of the window says about the offset (R61). -/
theorem placeOf_reg {c : Params} {off : Offset} {k : Nat} (h : placeOf c off = .reg k) :
    off.toNat = k ∧ k < 0x40 := by
  unfold placeOf at h
  split_ifs at h with h1 h2
  injection h with h
  omega

theorem placeOf_dbuf {c : Params} {off : Offset} {a : Nat} (h : placeOf c off = .dbuf a) :
    off.toNat = 0x8000 + a ∧ a < c.dbufBytes := by
  unfold placeOf at h
  split_ifs at h with h1 h2
  injection h with h
  omega

theorem placeOf_of_dbuf {c : Params} {off : Offset} {a : Nat} (h : off.toNat = 0x8000 + a)
    (ha : a < c.dbufBytes) : placeOf c off = .dbuf a := by
  have h1 : ¬ off.toNat < 0x40 := by omega
  have h2 : 0x8000 ≤ off.toNat ∧ off.toNat < 0x8000 + c.dbufBytes := by omega
  have h3 : off.toNat - 0x8000 = a := by omega
  simp only [placeOf, h1, h2, h3, if_false, and_self, if_true]

/-- The effects a host access can have on the state, the port's answer apart (R25, R30, R32, R33, R34, R36, R65,
R74, R83). -/
inductive HostEffect (s : State) : HostOp → State → Prop where
  /-- A read, a bus error, or a write to a read-only register. -/
  | none (op : HostOp) : HostEffect s op s
  /-- A write to STATUS. -/
  | status (v : Word) : HostEffect s (.wr32 0x004 v) (s.writeStatus v)
  /-- A write to INTEN. -/
  | inten (v : Word) : HostEffect s (.wr32 0x008 v) (s.writeInten v)
  /-- A 32-bit write dropped because BUSY = 1. -/
  | overrun32 (off : Offset) (v : Word) (h : s.cstate = .busy) : HostEffect s (.wr32 off v) s.overrun
  /-- An 8-bit write dropped because BUSY = 1. -/
  | overrun8 (off : Offset) (v : Byte) (h : s.cstate = .busy) : HostEffect s (.wr8 off v) s.overrun
  /-- An issue. -/
  | issue (v : Word) (h : s.cstate = .idle) : HostEffect s (.wr32 0x00C v) (s.issue v)
  /-- A write to ARG0, ARG1, ARG2, DATA0 or DATA1. -/
  | operand (off : Offset) (v : Word) (h : s.cstate = .idle) (a0 a1 a2 d0 d1 : Word) :
      HostEffect s (.wr32 off v) { s with arg0 := a0, arg1 := a1, arg2 := a2, data0 := d0, data1 := d1 }
  /-- An 8-bit write to DBUF. -/
  | dbuf8 (off : Offset) (v : Byte) (h : s.cstate = .idle) (a : Nat) (ha : a < s.cfg.dbufBytes) :
      HostEffect s (.wr8 off v) (s.memWrite a [v])
  /-- A 32-bit write to DBUF, at an aligned address. -/
  | dbuf32 (off : Offset) (v : Word) (h : s.cstate = .idle) (a : Nat) (ha : a < s.cfg.dbufBytes)
      (hd : a % 4 = 0) : HostEffect s (.wr32 off v) (s.memWrite a (bytesBE32 v))

theorem State.busy_iff (s : State) : s.busy = true ↔ s.cstate = .busy := by simp [State.busy]

theorem State.not_busy {s : State} (h : s.busy = false) : s.cstate = .idle := by
  cases hc : s.cstate with
  | idle => rfl
  | busy => simp [State.busy, hc] at h

/-- A legal register write has one of the effects (R83). -/
theorem State.writeReg_effect (s : State) (off : Offset) (v : Word) (h : off.toNat < 0x40)
    (ha : off.toNat % 4 = 0) : HostEffect s (.wr32 off v) (s.writeReg (regAt (off.toNat / 4)) v) := by
  obtain ⟨n, hn⟩ : ∃ n : Nat, off.toNat = n := ⟨_, rfl⟩
  have ho : off = BitVec.ofNat 16 n := by rw [← hn]; simp
  rw [hn] at h ha
  subst ho
  have hx : (BitVec.ofNat 16 n).toNat / 4 = n / 4 := by rw [hn]
  rw [hx]
  cases hb : s.busy with
  | true =>
    have hc := s.busy_iff.mp hb
    interval_cases n <;> first
      | (exfalso; omega)
      | (simp only [regAt, State.writeReg, State.unlessBusy, hb, if_true, Nat.reduceDiv]
         first
         | exact .none _
         | exact .status v
         | exact .inten v
         | exact .overrun32 _ v hc)
  | false =>
    have hc := State.not_busy hb
    interval_cases n <;> first
      | (exfalso; omega)
      | (simp only [regAt, State.writeReg, State.unlessBusy, hb, Nat.reduceDiv, Bool.false_eq_true, if_false]
         first
         | exact .none _
         | exact .status v
         | exact .inten v
         | exact .issue v hc
         | exact .operand _ v hc _ _ _ _ _)

/-- What one host access can do: an effect, and the port's answer. -/
theorem State.hostAccess_effect (s : State) (op : HostOp) :
    ∃ p t, HostEffect s op t ∧ s.hostAccess op = t.respond p := by
  cases op with
  | rd8 off =>
    simp only [State.hostAccess, State.read8]
    split <;> exact ⟨_, s, .none _, rfl⟩
  | rd16 off => exact ⟨_, s, .none _, rfl⟩
  | rd32 off =>
    simp only [State.hostAccess, State.read32]
    split <;> (try split_ifs) <;> exact ⟨_, s, .none _, rfl⟩
  | wr16 off v => exact ⟨_, s, .none _, rfl⟩
  | wr8 off v =>
    simp only [State.hostAccess, State.write8]
    split
    · exact ⟨_, s, .none _, rfl⟩
    · rename_i a ha
      refine ⟨.ack, _, ?_, rfl⟩
      unfold State.unlessBusy
      cases hb : s.busy with
      | true => exact .overrun8 _ _ (s.busy_iff.mp hb)
      | false => exact .dbuf8 _ _ (State.not_busy hb) a (placeOf_dbuf ha).2
    · exact ⟨_, s, .none _, rfl⟩
  | wr32 off v =>
    simp only [State.hostAccess, State.write32]
    split
    · rename_i k hk
      split_ifs with h4
      · obtain ⟨h1, h2⟩ := placeOf_reg hk
        subst h1
        exact ⟨.ack, _, s.writeReg_effect off v h2 h4, rfl⟩
      · exact ⟨_, s, .none _, rfl⟩
    · rename_i a ha
      split_ifs with h4
      · refine ⟨.ack, _, ?_, rfl⟩
        unfold State.unlessBusy
        cases hb : s.busy with
        | true => exact .overrun32 _ _ (s.busy_iff.mp hb)
        | false => exact .dbuf32 _ _ (State.not_busy hb) a (placeOf_dbuf ha).2 h4
      · exact ⟨_, s, .none _, rfl⟩
    · exact ⟨_, s, .none _, rfl⟩

end Sys2Proof.Machine
end

