-- ==== Sys2Proof/Laws/Checks.lean ====
section
/-! SUPPORT. When the checks of NEW, ENC and DEC pass, and what a level operand selects. -/

namespace Sys2Proof.Machine

/-- The checks of ENC pass exactly so (R191). -/
theorem State.encCheck_eq_none (s : State) :
    s.encCheck = none ↔ s.keyv = true ∧ s.arg0.toNat + s.arg1.toNat ≤ s.cfg.dbufBytes ∧
      s.arg2.toNat + paddedLen s.arg1.toNat ≤ s.cfg.dbufBytes := by
  unfold State.encCheck inRange
  cases s.keyv <;> simp
  split_ifs <;> simp_all

/-- The checks of DEC pass exactly so (R192). -/
theorem State.decCheck_eq_none (s : State) :
    s.decCheck = none ↔ s.keyv = true ∧ ¬ (s.arg1.toNat % 8 ≠ 0 ∧ s.cfg.decPartial = .reject) ∧
      s.arg0.toNat + s.arg1.toNat ≤ s.cfg.dbufBytes ∧
      s.arg2.toNat + wholeLen s.arg1.toNat ≤ s.cfg.dbufBytes := by
  unfold State.decCheck inRange
  cases s.keyv <;> simp
  split_ifs <;> simp_all

/-- The checks of NEW pass exactly so (R142). -/
theorem State.newCheck_eq_ok (s : State) (sel : LevelSel) :
    s.newCheck = .ok sel ↔ decodeLevel s.cfg s.arg0 = some sel ∧
      s.arg1.toNat + s.arg2.toNat ≤ s.cfg.dbufBytes ∧
      ¬ (s.arg2.toNat < sel.size ∧ s.cfg.shortKey = .reject) := by
  unfold State.newCheck inRange
  cases decodeLevel s.cfg s.arg0 with
  | none => simp
  | some x =>
    simp only [decide_eq_true_eq, Option.some.injEq]
    split_ifs with h1 h2
    · simp only [false_iff, not_and]
      rintro rfl _ h
      exact h h2.1 h2.2
    · simp only [Except.ok.injEq]
      constructor
      · rintro rfl
        exact ⟨rfl, h1, h2⟩
      · exact fun h => h.1
    · simp only [false_iff, not_and]
      intro _ h
      exact absurd h h1

/-- What a level operand selects (R141): the thin variant, or a level 1 .. MAX_LEVEL. -/
theorem decodeLevel_eq_some {c : Params} {a : Word} {sel : LevelSel} (h : decodeLevel c a = some sel) :
    (a.toInt < 1 ∧ sel = ⟨0, 8, 8⟩) ∨
    ∃ lv : Nat, a.toInt = (lv : Int) ∧ 1 ≤ lv ∧ lv ≤ c.maxLevel ∧ sel = ⟨lv, 16 * lv, 8 * lv⟩ := by
  unfold decodeLevel at h
  split_ifs at h with h1 h2
  · exact .inl ⟨h1, by simpa using h.symm⟩
  · refine .inr ⟨a.toInt.toNat, by omega, by omega, by omega, by simpa using h.symm⟩

theorem decodeLevel_thin (c : Params) {a : Word} (h : a.toInt < 1) : decodeLevel c a = some ⟨0, 8, 8⟩ := by
  simp [decodeLevel, h]

theorem decodeLevel_levelled {c : Params} {a : Word} {lv : Nat} (h : a.toInt = (lv : Int)) (h1 : 1 ≤ lv)
    (hm : lv ≤ c.maxLevel) : decodeLevel c a = some ⟨lv, 16 * lv, 8 * lv⟩ := by
  unfold decodeLevel
  rw [h, if_neg (by omega), if_pos (by omega)]
  simp

end Sys2Proof.Machine
end

