-- ==== Sys2Proof/Laws/Decode.lean ====
section
/-! SUPPORT. The decoder and the encoder: a word is its RSVD and OPC fields, and what decodes is what some command
encodes to. -/

namespace Sys2Proof

/-- A command word is RSVD above OPC (R91). -/
theorem word_eq_rsvd_append_opc (w : Word) : w = rsvdOf w ++ opcOf w := by
  apply BitVec.eq_of_getLsbD_eq
  intro i hi
  simp only [rsvdOf, opcOf, BitVec.getLsbD_append, BitVec.getLsbD_extractLsb']
  interval_cases i <;> simp

/-- A word that decodes is the one word of its command (R92). -/
theorem eq_encode_of_decode {w : Word} {i : Instr} (h : decode w = some i) : w = encode i := by
  unfold decode at h
  split at h
  · rename_i hr
    rw [word_eq_rsvd_append_opc w, hr]
    unfold decodeOpc at h
    split at h <;> simp at h <;> subst h <;> simp only [encode, opcodeOf] <;> congr 1 <;>
      apply BitVec.eq_of_toNat_eq <;> simpa using ‹_›
  · simp at h

/-- A reserved word decodes to nothing (R96). -/
theorem decode_reserved {w : Word} (h : rsvdOf w ≠ 0 ∨ 7 ≤ (opcOf w).toNat) : decode w = none := by
  unfold decode
  split
  · rename_i hr
    have h := h.resolve_left (by simpa using hr)
    unfold decodeOpc
    split <;> first | rfl | omega
  · rfl

end Sys2Proof
end

