-- ==== Sys2Proof/Laws/Exec.lean ====
section
/-! SUPPORT. What a command can do, said once: `exec_cases` names the failed and the successful completion of every
command, and one frame lemma per command says which fields its own effect can change. -/

namespace Sys2Proof.Machine

/-- A fold of steps that each keep a projection keeps it. -/
theorem foldl_keeps {α : Type} (p : State → α) (f : State → Nat → State) (h : ∀ s k, p (f s k) = p s)
    (ks : List Nat) (s : State) : p (ks.foldl f s) = p s := by
  induction ks generalizing s with
  | nil => rfl
  | cons k ks ih => rw [List.foldl_cons, ih, h]

/-- What `putBlock` writes, in one record (R67, R51). -/
theorem State.putBlock_eq (s : State) (dst k : Nat) (h : Halves) :
    s.putBlock dst k h =
      { s with dbuf := s.dbuf.writeBytes (dst + 8 * k) (storeBlock h), l := h.l, r := h.r } := rfl

/-- A fold of block steps changes DBUF, L and R alone. -/
theorem foldl_putBlock_frame (f : State → Nat → State) (h : ∀ s k, ∃ dst hv, f s k = s.putBlock dst k hv)
    (ks : List Nat) (s : State) :
    ∃ d l r, ks.foldl f s = { s with dbuf := d, l := l, r := r } := by
  induction ks generalizing s with
  | nil => exact ⟨s.dbuf, s.l, s.r, rfl⟩
  | cons k ks ih =>
    obtain ⟨dst, hv, e⟩ := h s k
    obtain ⟨d, l, r, e'⟩ := ih (f s k)
    exact ⟨d, l, r, by rw [List.foldl_cons, e', e, State.putBlock_eq]⟩

/-- ENC's own effect changes DBUF, L, R and RESULT alone (R191). -/
theorem State.encRun_frame (s : State) :
    ∃ d l r, s.encRun = { s with
      dbuf := d, l := l, r := r, result := BitVec.ofNat 32 (paddedLen s.arg1.toNat) } := by
  obtain ⟨d, l, r, e⟩ := foldl_putBlock_frame (encStep s.arg0.toNat s.arg1.toNat s.arg2.toNat)
    (fun _ _ => ⟨_, _, rfl⟩) (List.range (paddedLen s.arg1.toNat / 8)) s
  exact ⟨d, l, r, by rw [State.encRun, e]⟩

/-- DEC's own effect changes DBUF, L, R and RESULT alone (R192). -/
theorem State.decRun_frame (s : State) :
    ∃ d l r, s.decRun = { s with
      dbuf := d, l := l, r := r, result := BitVec.ofNat 32 (wholeLen s.arg1.toNat) } := by
  obtain ⟨d, l, r, e⟩ := foldl_putBlock_frame (decStep s.arg0.toNat s.arg2.toNat)
    (fun _ _ => ⟨_, _, rfl⟩) (List.range (wholeLen s.arg1.toNat / 8)) s
  exact ⟨d, l, r, by rw [State.decRun, e]⟩

/-- What NEW writes before it completes, in one record (R144). -/
theorem State.construct_eq (s : State) (sel : LevelSel) :
    s.construct sel = { s with
      sp := if s.spbv then s.sp else spTables
      spbv := true
      ks := (s.newSchedule sel).1
      kbw := (s.newSchedule sel).2
      level := BitVec.ofNat 32 sel.lv
      rounds := BitVec.ofNat 32 sel.rounds
      keysize := BitVec.ofNat 32 sel.size
      keyv := true } := by
  unfold State.construct State.ensureSP
  cases h : s.spbv <;> simp [State.spBuild, h]

/-- What one command can do: the failed completion with an error code, or its own effect and then the successful
completion (R230, R232, R233). -/
theorem exec_cases (i : Instr) (s : State) :
    (∃ e : ErrCode, e ≠ .ok ∧ exec i s = .next (s.complete e)) ∨
    (∃ u : State, exec i s = .next (u.complete .ok) ∧
      match i with
      | .nop => u = s
      | .new => ∃ sel, s.newCheck = .ok sel ∧ u = s.construct sel
      | .enc => s.encCheck = none ∧ u = s.encRun
      | .dec => s.decCheck = none ∧ u = s.decRun
      | .encb => s.keyv = true ∧ u = s.putHalves (s.encHalves s.dataHalves)
      | .decb => s.keyv = true ∧ u = s.putHalves (s.decHalves s.dataHalves)
      | .clear => u = { s with ks := s.ks.map (fun _ => ⟨0, 0, 0⟩) }) := by
  cases i with
  | nop => exact .inr ⟨s, rfl, rfl⟩
  | clear => exact .inr ⟨_, rfl, rfl⟩
  | encb =>
    by_cases h : s.keyv
    · exact .inr ⟨_, by simp [exec, execEncb, h], h, rfl⟩
    · exact .inl ⟨.noKey, by simp, by simp [exec, execEncb, h]⟩
  | decb =>
    by_cases h : s.keyv
    · exact .inr ⟨_, by simp [exec, execDecb, h], h, rfl⟩
    · exact .inl ⟨.noKey, by simp, by simp [exec, execDecb, h]⟩
  | new =>
    cases h : s.newCheck with
    | error e =>
      refine .inl ⟨e, ?_, by simp [exec, execNew, h]⟩
      rintro rfl
      unfold State.newCheck at h
      split at h
      · simp at h
      · split_ifs at h <;> simp at h
    | ok sel => exact .inr ⟨_, by simp [exec, execNew, h], sel, rfl, rfl⟩
  | enc =>
    cases h : s.encCheck with
    | some e =>
      refine .inl ⟨e, ?_, by simp [exec, execEnc, h]⟩
      rintro rfl
      unfold State.encCheck at h
      split_ifs at h <;> simp at h
    | none => exact .inr ⟨_, by simp [exec, execEnc, h], rfl, rfl⟩
  | dec =>
    cases h : s.decCheck with
    | some e =>
      refine .inl ⟨e, ?_, by simp [exec, execDec, h]⟩
      rintro rfl
      unfold State.decCheck at h
      split_ifs at h <;> simp at h
    | none => exact .inr ⟨_, by simp [exec, execDec, h], rfl, rfl⟩

/-- An error code other than OK is not 0x00 (R231). -/
theorem ErrCode.code_ne_zero {e : ErrCode} (h : e ≠ .ok) : e.code ≠ 0 := by
  cases e <;> simp_all [ErrCode.code]

/-- The codes 0x07 to 0xFF are never produced (R231). -/
theorem ErrCode.code_le (e : ErrCode) : e.code.toNat ≤ 6 := by
  cases e <;> decide

/-- A command that completed with ERR = 0x00 passed its checks; the state it left is its effect, completed. -/
theorem exec_ok {i : Instr} {s t : State} (h : exec i s = .next t) (he : t.err = 0) :
    match i with
    | .nop => t = s.complete .ok
    | .new => ∃ sel, s.newCheck = .ok sel ∧ t = (s.construct sel).complete .ok
    | .enc => s.encCheck = none ∧ t = s.encRun.complete .ok
    | .dec => s.decCheck = none ∧ t = s.decRun.complete .ok
    | .encb => s.keyv = true ∧ t = (s.putHalves (s.encHalves s.dataHalves)).complete .ok
    | .decb => s.keyv = true ∧ t = (s.putHalves (s.decHalves s.dataHalves)).complete .ok
    | .clear => t = ({ s with ks := s.ks.map (fun _ => ⟨0, 0, 0⟩) } : State).complete .ok := by
  rcases exec_cases i s with ⟨e, hne, hx⟩ | ⟨u, hx, hu⟩
  · rw [h] at hx
    injection hx with hx
    subst hx
    exact absurd he (ErrCode.code_ne_zero hne)
  · rw [h] at hx
    injection hx with hx
    subst hx
    cases i <;> simp only at hu ⊢ <;> first | exact ⟨hu.1, by rw [hu.2]⟩ | (obtain ⟨sel, h1, rfl⟩ := hu; exact ⟨sel, h1, rfl⟩) | rw [hu]

end Sys2Proof.Machine
end

