-- ==== Sys2Proof/Laws/KeySchedule.lean ====
section
/-! SUPPORT. The key schedule: the rotate-with-inversion step iterated, one triple of a fill from the key words it
starts with, and what a fill reads as. -/

namespace Sys2Proof.Machine

/-- Every key word stepped once: what one iteration of `Fill` does to KBW (R148). -/
def KBW.stepAll (kb : KBW) : KBW := ⟨rotInv kb.w0, rotInv kb.w1, rotInv kb.w2, rotInv kb.w3⟩

theorem bv2_cases (k : BitVec 2) : k = 0 ∨ k = 1 ∨ k = 2 ∨ k = 3 := by
  revert k
  decide

/-- One step of a key word, bit by bit (R149). -/
theorem rotInv_getLsbD (v : KeyWord) (j : Nat) (h : j < 16) :
    (rotInv v).getLsbD j = if j = 15 then !v.getLsbD 0 else v.getLsbD (j + 1) := by
  unfold rotInv
  interval_cases j <;> simp

/-- m steps of a key word, bit by bit: the word and its complement, end to end, read from place m (R149). -/
theorem getLsbD_rotInv_iterate (v : KeyWord) (m j : Nat) (h : j < 16) :
    (rotInv^[m] v).getLsbD j = (v.getLsbD ((j + m) % 16) ^^ decide ((j + m) / 16 % 2 = 1)) := by
  induction m generalizing j with
  | zero => simp [Nat.mod_eq_of_lt h, Nat.div_eq_of_lt h]
  | succ m ih =>
    rw [Function.iterate_succ_apply', rotInv_getLsbD _ _ h]
    split
    · rename_i hj
      subst hj
      rw [ih 0 (by omega)]
      have e1 : (15 + (m + 1)) % 16 = (0 + m) % 16 := by omega
      have e2 : (15 + (m + 1)) / 16 = (0 + m) / 16 + 1 := by omega
      rw [e1, e2]
      rcases Nat.mod_two_eq_zero_or_one ((0 + m) / 16) with h | h
      · rw [h, show ((0 + m) / 16 + 1) % 2 = 1 by omega]
        simp
      · rw [h, show ((0 + m) / 16 + 1) % 2 = 0 by omega]
        simp
    · rw [ih (j + 1) (by omega), show j + 1 + m = j + (m + 1) by omega]

theorem KBW.get_stepAll_iterate (kb : KBW) (m : Nat) (w : BitVec 2) :
    (KBW.stepAll^[m] kb).get w = rotInv^[m] (kb.get w) := by
  induction m with
  | zero => rfl
  | succ m ih =>
    rw [Function.iterate_succ_apply', Function.iterate_succ_apply', ← ih]
    rcases bv2_cases w with rfl | rfl | rfl | rfl <;> rfl

theorem getLsbD_pushBit_zero (v : SubkeyWord) (b : Bool) : (pushBit v b).getLsbD 0 = b := by
  simp [pushBit]

theorem getLsbD_pushBit_succ (v : SubkeyWord) (b : Bool) (n : Nat) (h : n + 1 < 20) :
    (pushBit v b).getLsbD (n + 1) = v.getLsbD n := by
  simp [pushBit]
  omega

/-- Of n bits shifted in, the m-th ends as bit n − 1 − m (R151). -/
theorem getLsbD_foldl_pushBit (b : Nat → Bool) (n m : Nat) (hn : n ≤ 20) (hm : m < n) :
    ((List.range n).foldl (fun v k => pushBit v (b k)) 0).getLsbD (n - 1 - m) = b m := by
  induction n with
  | zero => omega
  | succ n ih =>
    rw [List.range_succ, List.foldl_append, List.foldl_cons, List.foldl_nil]
    by_cases h : m = n
    · subst h
      rw [show m + 1 - 1 - m = 0 by omega, getLsbD_pushBit_zero]
    · have e : n + 1 - 1 - m = n - 1 - m + 1 := by omega
      rw [e, getLsbD_pushBit_succ _ _ _ (by omega), ih (by omega) (by omega)]

/-- One iteration: four bits into one subkey word, and every key word stepped (R148). -/
theorem fillIter_eq (kr : BitVec 2) (sk : Subkey) (kb : KBW) (j : Nat) :
    fillIter kr (sk, kb) j =
      ((List.range 4).foldl (fun t k => t.push (j % 3) ((kb.get (kr + BitVec.ofNat 2 k)).getLsbD 0)) sk,
       kb.stepAll) := by
  rcases bv2_cases kr with rfl | rfl | rfl | rfl <;> rfl

theorem foldl_fillIter_snd (kr : BitVec 2) (sk : Subkey) (kb : KBW) (n : Nat) :
    ((List.range n).foldl (fillIter kr) (sk, kb)).2 = KBW.stepAll^[n] kb := by
  induction n with
  | zero => rfl
  | succ n ih =>
    rw [List.range_succ, List.foldl_append, List.foldl_cons, List.foldl_nil, Function.iterate_succ_apply', ← ih]
    generalize (List.range n).foldl (fillIter kr) (sk, kb) = p
    obtain ⟨a, b⟩ := p
    rw [fillIter_eq]

/-- A triple steps every key word fifteen times (R148). -/
theorem fillTriple_snd (kr : BitVec 2) (kb : KBW) : (fillTriple kr kb).2 = KBW.stepAll^[15] kb :=
  foldl_fillIter_snd _ _ _ _

/-- Word s of the triple that starts from key words `kb`: twenty bits in the order they are shifted in (R148,
R151). -/
def tripleWord (kr : BitVec 2) (kb : KBW) (s : Nat) : SubkeyWord :=
  (List.range 20).foldl
    (fun v m =>
      pushBit v (((KBW.stepAll^[3 * (m / 4) + s] kb).get (kr + BitVec.ofNat 2 (m % 4))).getLsbD 0)) 0

theorem fillTriple_fst (kr : BitVec 2) (kb : KBW) :
    (fillTriple kr kb).1 = ⟨tripleWord kr kb 0, tripleWord kr kb 1, tripleWord kr kb 2⟩ := by
  unfold fillTriple
  simp only [show List.range 15 = [0, 1, 2, 3, 4, 5, 6, 7, 8, 9, 10, 11, 12, 13, 14] from rfl,
    List.foldl_cons, List.foldl_nil, fillIter_eq]
  rfl

/-- The first m triples of a fill: where they stand, what they start from, and that nothing else changes (R148). -/
theorem foldl_fill (n ro : Nat) (ks : List Subkey) (kb : KBW) (m : Nat) (hm : m ≤ 8) (hn : n + 8 ≤ ks.length) :
    let q := (List.range m).foldl
      (fun (q : List Subkey × KBW) i =>
        (q.1.set (n + i) (fillTriple (keyrot (ro + i)) q.2).1, (fillTriple (keyrot (ro + i)) q.2).2)) (ks, kb)
    q.2 = KBW.stepAll^[15 * m] kb ∧ q.1.length = ks.length ∧
    (∀ i < m, subkeyAt q.1 (n + i) = (fillTriple (keyrot (ro + i)) (KBW.stepAll^[15 * i] kb)).1) ∧
    (∀ i, (i < n ∨ n + m ≤ i) → subkeyAt q.1 i = subkeyAt ks i) := by
  induction m with
  | zero => simp
  | succ m ih =>
    obtain ⟨h1, h2, h3, h4⟩ := ih (by omega)
    simp only [List.range_succ, List.foldl_append, List.foldl_cons, List.foldl_nil]
    generalize (List.range m).foldl
      (fun (q : List Subkey × KBW) i =>
        (q.1.set (n + i) (fillTriple (keyrot (ro + i)) q.2).1, (fillTriple (keyrot (ro + i)) q.2).2)) (ks, kb)
      = q at *
    refine ⟨?_, ?_, ?_, ?_⟩
    · rw [fillTriple_snd, h1, ← Function.iterate_add_apply]
      congr 1
      omega
    · simp [h2]
    · intro i hi
      by_cases h : i = m
      · subst h
        rw [subkeyAt, List.getD_eq_getElem?_getD, List.getElem?_set_self (by omega), h1]
        rfl
      · rw [subkeyAt, List.getD_eq_getElem?_getD, List.getElem?_set_ne (by omega),
          ← List.getD_eq_getElem?_getD]
        exact h3 i (by omega)
    · intro i hi
      rw [subkeyAt, List.getD_eq_getElem?_getD, List.getElem?_set_ne (by omega),
        ← List.getD_eq_getElem?_getD]
      exact h4 i (by omega)

/-- What `Fill(n, ro)` does (R148). -/
theorem fill_spec (n ro : Nat) (ks : List Subkey) (kb : KBW) (hn : n + 8 ≤ ks.length) :
    (fill n ro (ks, kb)).2 = KBW.stepAll^[120] kb ∧ (fill n ro (ks, kb)).1.length = ks.length ∧
    (∀ i < 8, subkeyAt (fill n ro (ks, kb)).1 (n + i) =
      (fillTriple (keyrot (ro + i)) (KBW.stepAll^[15 * i] kb)).1) ∧
    (∀ i, (i < n ∨ n + 8 ≤ i) → subkeyAt (fill n ro (ks, kb)).1 i = subkeyAt ks i) :=
  foldl_fill n ro ks kb 8 (Nat.le_refl 8) hn

/-- A fill keeps the size of KS. -/
@[simp] theorem fill_length (n ro : Nat) (p : List Subkey × KBW) : (fill n ro p).1.length = p.1.length := by
  unfold fill
  generalize List.range 8 = is
  induction is generalizing p with
  | nil => rfl
  | cons i is ih => simp [List.foldl_cons, ih]

/-- The multi-level regime keeps the size of KS. -/
theorem buildMulti_length (key : List Byte) (lv rounds : Nat) (p : List Subkey × KBW) :
    (buildMulti key lv rounds p).1.length = p.1.length := by
  unfold buildMulti
  generalize List.range lv = bs
  induction bs generalizing p with
  | nil => rfl
  | cons b bs ih => simp [List.foldl_cons, ih, buildBlock]

/-- The first c key blocks of the multi-level regime: where their two fills stand, what they start from, and that
no triple at or beyond rounds changes (R147, R150, R152). -/
theorem foldl_buildBlock (key : List Byte) (lv : Nat) (ks : List Subkey) (kb0 : KBW)
    (hlen : 16 * lv ≤ ks.length) (c : Nat) (hc : c ≤ lv) :
    let q := (List.range c).foldl (buildBlock key (16 * lv)) (ks, kb0)
    q.1.length = ks.length ∧
    (∀ b < c, ∀ i < 8,
      subkeyAt q.1 (8 * b + i) = (fillTriple (keyrot i) (KBW.stepAll^[15 * i] (loadKB key b))).1 ∧
      subkeyAt q.1 (16 * lv - 8 - 8 * b + i) =
        (fillTriple (keyrot (8 + i)) (KBW.stepAll^[120 + 15 * i] (loadKB key b))).1) ∧
    (∀ i, 16 * lv ≤ i → subkeyAt q.1 i = subkeyAt ks i) := by
  induction c with
  | zero => simp
  | succ c ih =>
    obtain ⟨h1, h2, h3⟩ := ih (by omega)
    simp only [List.range_succ, List.foldl_append, List.foldl_cons, List.foldl_nil]
    generalize (List.range c).foldl (buildBlock key (16 * lv)) (ks, kb0) = q at *
    have A := fill_spec (8 * c) 0 q.1 (loadKB key c) (by omega)
    have B := fill_spec (16 * lv - 8 - 8 * c) 8 (fill (8 * c) 0 (q.1, loadKB key c)).1
      (fill (8 * c) 0 (q.1, loadKB key c)).2 (by rw [A.2.1]; omega)
    unfold buildBlock
    refine ⟨by simp [h1], ?_, ?_⟩
    · intro b hb i hi
      by_cases h : b = c
      · subst h
        constructor
        · rw [B.2.2.2 _ (by omega), A.2.2.1 i hi]
          simp
        · rw [B.2.2.1 i hi, A.1, ← Function.iterate_add_apply, Nat.add_comm (15 * i)]
      · constructor
        · rw [B.2.2.2 _ (by omega), A.2.2.2 _ (by omega)]
          exact (h2 b (by omega) i hi).1
        · rw [B.2.2.2 _ (by omega), A.2.2.2 _ (by omega)]
          exact (h2 b (by omega) i hi).2
    · intro i hi
      rw [B.2.2.2 _ (by omega), A.2.2.2 _ (by omega)]
      exact h3 i hi

end Sys2Proof.Machine
end

