-- ==== Sys2Proof/Laws/Memory.lean ====
section
/-! SUPPORT. The laws of DBUF: a read after a write, the canonical form, and the byte sequences of `MemRead` and
`MemWrite`. -/

namespace Sys2Proof.Machine

@[simp] theorem Memory.read_nil (a : Nat) : Memory.read [] a = none := rfl

@[simp] theorem Memory.read_write_same (m : Memory) (a : Nat) (b : Byte) : (m.write a b).read a = some b := by
  induction m with
  | nil => simp [Memory.write, Memory.read]
  | cons c rest ih =>
    obtain ⟨x, v⟩ := c
    simp only [Memory.write]
    split
    · simp [Memory.read]
    · split
      · simp [Memory.read]
      · rename_i h1 h2
        simp only [Memory.read]
        rw [if_neg (fun h => h2 h.symm), ih]

theorem Memory.read_write_other (m : Memory) {a a' : Nat} (b : Byte) (h : a' ≠ a) :
    (m.write a b).read a' = m.read a' := by
  induction m with
  | nil => simp [Memory.write, Memory.read, Ne.symm h, Memory.unlisted]
  | cons c rest ih =>
    obtain ⟨x, v⟩ := c
    simp only [Memory.write]
    split
    · simp [Memory.read, Ne.symm h]
    · split
      · rename_i h1 h2
        subst h2
        simp [Memory.read, Ne.symm h]
      · simp only [Memory.read, ih]

/-- Where the addresses of a written memory come from. -/
theorem Memory.mem_write {m : Memory} {a : Nat} {b : Byte} {c : Host.Cell} (h : c ∈ m.write a b) :
    c = (a, b) ∨ c ∈ m := by
  induction m with
  | nil => simpa [Memory.write] using h
  | cons d rest ih =>
    obtain ⟨x, v⟩ := d
    simp only [Memory.write] at h
    split at h
    · simpa using h
    · split at h
      · rcases List.mem_cons.mp h with h | h
        · exact .inl h
        · exact .inr (List.mem_cons_of_mem _ h)
      · rcases List.mem_cons.mp h with h | h
        · exact .inr (h ▸ List.mem_cons_self)
        · rcases ih h with h | h
          · exact .inl h
          · exact .inr (List.mem_cons_of_mem _ h)

/-- A write keeps the canonical form. -/
theorem Memory.write_wf {m : Memory} (h : m.wf) (a : Nat) (b : Byte) : (m.write a b).wf := by
  induction m with
  | nil => simp [Memory.write, Memory.wf]
  | cons c rest ih =>
    obtain ⟨x, v⟩ := c
    obtain ⟨hx, hr⟩ := List.pairwise_cons.mp h
    simp only [Memory.write]
    split
    · rename_i h1
      refine List.pairwise_cons.mpr ⟨fun d hd => ?_, h⟩
      rcases List.mem_cons.mp hd with hd | hd
      · simpa [hd] using h1
      · exact Nat.lt_trans h1 (hx d hd)
    · split
      · rename_i h1 h2
        subst h2
        exact List.pairwise_cons.mpr ⟨hx, hr⟩
      · rename_i h1 h2
        refine List.pairwise_cons.mpr ⟨fun d hd => ?_, ih hr⟩
        rcases Memory.mem_write hd with hd | hd
        · subst hd
          show x < a
          omega
        · exact hx d hd

theorem Memory.writeBytes_wf {m : Memory} (h : m.wf) (a : Nat) (bs : List Byte) : (m.writeBytes a bs).wf := by
  induction bs generalizing m a with
  | nil => exact h
  | cons b bs ih => exact ih (Memory.write_wf h a b) (a + 1)

/-- Every address of a written sequence is an old one or one of the stored ones. -/
theorem Memory.mem_writeBytes {m : Memory} {a : Nat} {bs : List Byte} {c : Host.Cell}
    (h : c ∈ m.writeBytes a bs) : (a ≤ c.1 ∧ c.1 < a + bs.length) ∨ c ∈ m := by
  induction bs generalizing m a with
  | nil => exact .inr h
  | cons b bs ih =>
    rcases ih h with h | h
    · exact .inl ⟨by omega, by simp only [List.length_cons]; omega⟩
    · rcases Memory.mem_write h with h | h
      · subst h
        exact .inl ⟨Nat.le_refl _, by simp⟩
      · exact .inr h

/-- One statement of what a written byte sequence reads as (R67). -/
theorem Memory.read_writeBytes (m : Memory) (a : Nat) (bs : List Byte) (x : Nat) :
    (m.writeBytes a bs).read x =
      if a ≤ x ∧ x < a + bs.length then some (byteAt bs (x - a)) else m.read x := by
  induction bs generalizing m a with
  | nil => simp [Memory.writeBytes]
  | cons b bs ih =>
    simp only [Memory.writeBytes, ih, List.length_cons]
    by_cases hx : x = a
    · subst hx
      simp [byteAt]
    · by_cases h : a + 1 ≤ x ∧ x < a + 1 + bs.length
      · rw [if_pos h, if_pos ⟨by omega, by omega⟩]
        have e : x - a = x - (a + 1) + 1 := by omega
        simp [byteAt, e]
      · rw [if_neg h, if_neg (by omega), Memory.read_write_other _ _ hx]

/-- `MemWrite` keeps the canonical form (R67). -/
theorem State.memWrite_wf {s : State} (h : s.dbuf.wf) (a : Nat) (bs : List Byte) : (s.memWrite a bs).dbuf.wf :=
  Memory.writeBytes_wf h a bs

/-- DBUF after a reset is in its canonical form (R262). -/
theorem State.resetDbuf_wf (s : State) : s.resetDbuf.wf := by
  unfold State.resetDbuf
  split
  · exact Memory.writeBytes_wf List.Pairwise.nil _ _
  · exact List.Pairwise.nil

/-- The reset state's DBUF is in its canonical form. -/
theorem State.reset_dbuf_wf : State.reset.dbuf.wf := List.Pairwise.nil

/-- What DBUF reads as after `MemWrite` (R67). -/
theorem State.dbufByte_memWrite (s : State) (a : Nat) (bs : List Byte) (x : Nat) :
    (s.memWrite a bs).dbufByte x =
      if a ≤ x ∧ x < a + bs.length then byteAt bs (x - a) else s.dbufByte x := by
  simp only [State.dbufByte, State.memWrite_dbuf, State.memWrite_draws, Memory.read_writeBytes]
  split <;> simp

@[simp] theorem State.memRead_length (s : State) (a n : Nat) : (s.memRead a n).length = n := by
  simp [State.memRead]

/-- Byte j of `MemRead` (R66). -/
theorem State.byteAt_memRead (s : State) (a n j : Nat) (h : j < n) :
    byteAt (s.memRead a n) j = s.dbufByte (a + j) := by
  simp [byteAt, State.memRead, h]

end Sys2Proof.Machine
end

