-- ==== Sys2Proof/Laws/MultiBlock.lean ====
section
/-! SUPPORT. ENC and DEC block by block: what one block step reads and stores, and what a run of them keeps. -/

namespace Sys2Proof.Machine

/-- Byte j of ENC's input block k: an input byte, or zero padding (R190, R191). -/
theorem State.byteAt_encInput (s : State) (src n k j : Nat) (hj : j < 8) :
    byteAt (s.encInput src n k) j = if 8 * k + j < n then s.dbufByte (src + 8 * k + j) else 0 := by
  have hl : (s.memRead (src + 8 * k) (min 8 (n - 8 * k))).length = min 8 (n - 8 * k) := s.memRead_length _ _
  unfold State.encInput
  by_cases h : j < min 8 (n - 8 * k)
  · rw [if_pos (by omega)]
    have := s.byteAt_memRead (src + 8 * k) (min 8 (n - 8 * k)) j h
    rw [← this]
    simp only [byteAt, List.getD_eq_getElem?_getD]
    rw [List.getElem?_append_left (by omega)]
  · rw [if_neg (by omega)]
    simp only [byteAt, List.getD_eq_getElem?_getD]
    rw [List.getElem?_append_right (by omega), hl]
    simp [zeros, show j - min 8 (n - 8 * k) < 8 - min 8 (n - 8 * k) by omega]

theorem State.encInput_length (s : State) (src n k : Nat) : (s.encInput src n k).length = 8 := by
  simp [State.encInput, zeros]

/-- Byte j of DEC's input block k (R192). -/
theorem State.byteAt_decInput (s : State) (src k j : Nat) (hj : j < 8) :
    byteAt (s.decInput src k) j = s.dbufByte (src + 8 * k + j) :=
  s.byteAt_memRead _ _ _ hj

theorem State.decInput_length (s : State) (src k : Nat) : (s.decInput src k).length = 8 := s.memRead_length _ _

/-- What DBUF reads as after one block step of ENC (R191, R193). -/
theorem encStep_dbufByte (src n dst : Nat) (s : State) (k x : Nat) :
    (encStep src n dst s k).dbufByte x =
      if dst + 8 * k ≤ x ∧ x < dst + 8 * k + 8 then
        byteAt (s.encryptBlock (s.encInput src n k)) (x - (dst + 8 * k))
      else s.dbufByte x :=
  s.dbufByte_memWrite _ _ _

/-- What DBUF reads as after one block step of DEC (R192, R193). -/
theorem decStep_dbufByte (src dst : Nat) (s : State) (k x : Nat) :
    (decStep src dst s k).dbufByte x =
      if dst + 8 * k ≤ x ∧ x < dst + 8 * k + 8 then
        byteAt (s.decryptBlock (s.decInput src k)) (x - (dst + 8 * k))
      else s.dbufByte x :=
  s.dbufByte_memWrite _ _ _

/-- The state after the first c block steps of ENC. -/
def State.encAfter (s : State) (src n dst c : Nat) : State := (List.range c).foldl (encStep src n dst) s

/-- The state after the first c block steps of DEC. -/
def State.decAfter (s : State) (src dst c : Nat) : State := (List.range c).foldl (decStep src dst) s

theorem State.encAfter_succ (s : State) (src n dst c : Nat) :
    s.encAfter src n dst (c + 1) = encStep src n dst (s.encAfter src n dst c) c := by
  simp [State.encAfter, List.range_succ]

theorem State.decAfter_succ (s : State) (src dst c : Nat) :
    s.decAfter src dst (c + 1) = decStep src dst (s.decAfter src dst c) c := by
  simp [State.decAfter, List.range_succ]

theorem State.encAfter_frame (s : State) (src n dst c : Nat) :
    ∃ d l r, s.encAfter src n dst c = { s with dbuf := d, l := l, r := r } :=
  foldl_putBlock_frame _ (fun _ _ => ⟨_, _, rfl⟩) _ _

theorem State.decAfter_frame (s : State) (src dst c : Nat) :
    ∃ d l r, s.decAfter src dst c = { s with dbuf := d, l := l, r := r } :=
  foldl_putBlock_frame _ (fun _ _ => ⟨_, _, rfl⟩) _ _

theorem State.encAfter_encryptBlock (s : State) (src n dst c : Nat) (b : List Byte) :
    (s.encAfter src n dst c).encryptBlock b = s.encryptBlock b := by
  obtain ⟨d, l, r, e⟩ := s.encAfter_frame src n dst c
  rw [e]
  rfl

theorem State.decAfter_decryptBlock (s : State) (src dst c : Nat) (b : List Byte) :
    (s.decAfter src dst c).decryptBlock b = s.decryptBlock b := by
  obtain ⟨d, l, r, e⟩ := s.decAfter_frame src dst c
  rw [e]
  rfl

/-- DBUF after the run of ENC, RESULT apart. -/
theorem State.encRun_dbufByte (s : State) (x : Nat) :
    s.encRun.dbufByte x =
      (s.encAfter s.arg0.toNat s.arg1.toNat s.arg2.toNat (paddedLen s.arg1.toNat / 8)).dbufByte x := rfl

/-- DBUF after the run of DEC, RESULT apart. -/
theorem State.decRun_dbufByte (s : State) (x : Nat) :
    s.decRun.dbufByte x =
      (s.decAfter s.arg0.toNat s.arg2.toNat (wholeLen s.arg1.toNat / 8)).dbufByte x := rfl

/-- The first c block steps of ENC store to 8c bytes at the destination and nowhere else. -/
theorem State.encAfter_dbufByte_outside (s : State) (src n dst c x : Nat) (h : x < dst ∨ dst + 8 * c ≤ x) :
    (s.encAfter src n dst c).dbufByte x = s.dbufByte x := by
  induction c with
  | zero => rfl
  | succ c ih => rw [s.encAfter_succ, encStep_dbufByte, if_neg (by omega), ih (by omega)]

/-- The first c block steps of DEC store to 8c bytes at the destination and nowhere else. -/
theorem State.decAfter_dbufByte_outside (s : State) (src dst c x : Nat) (h : x < dst ∨ dst + 8 * c ≤ x) :
    (s.decAfter src dst c).dbufByte x = s.dbufByte x := by
  induction c with
  | zero => rfl
  | succ c ih => rw [s.decAfter_succ, decStep_dbufByte, if_neg (by omega), ih (by omega)]

/-- Every byte the first c block steps of ENC store is listed in DBUF, so that it reads the same under every draw. -/
theorem State.encAfter_read_isSome (s : State) (src n dst c x : Nat) (h : dst ≤ x ∧ x < dst + 8 * c) :
    ((s.encAfter src n dst c).dbuf.read x).isSome = true := by
  induction c with
  | zero => omega
  | succ c ih =>
    rw [s.encAfter_succ]
    simp only [encStep, State.putBlock_dbuf, Memory.read_writeBytes]
    split
    · rfl
    · rename_i hx
      rw [storeBlock_length] at hx
      exact ih (by omega)

/-- A listed byte reads the same in every state with the same DBUF, whatever the draw. -/
theorem State.dbufByte_of_isSome {s t : State} {x : Nat} (h : (s.dbuf.read x).isSome = true)
    (hd : t.dbuf = s.dbuf) : t.dbufByte x = s.dbufByte x := by
  obtain ⟨b, hb⟩ := Option.isSome_iff_exists.mp h
  simp [State.dbufByte, hd, hb]

/-- The addresses block steps list are old ones or destination ones, and the canonical form is kept. -/
theorem State.encAfter_dbuf (s : State) (src n dst c : Nat) (h : s.dbuf.wf) :
    (s.encAfter src n dst c).dbuf.wf ∧
    ∀ x ∈ (s.encAfter src n dst c).dbuf, (dst ≤ x.1 ∧ x.1 < dst + 8 * c) ∨ x ∈ s.dbuf := by
  induction c with
  | zero => exact ⟨h, fun x hx => .inr hx⟩
  | succ c ih =>
    rw [s.encAfter_succ]
    refine ⟨Memory.writeBytes_wf ih.1 _ _, fun x hx => ?_⟩
    rcases Memory.mem_writeBytes hx with hx | hx
    · simp only [storeBlock_length] at hx
      exact .inl ⟨by omega, by omega⟩
    · rcases ih.2 x hx with hx | hx
      · exact .inl ⟨by omega, by omega⟩
      · exact .inr hx

theorem State.decAfter_dbuf (s : State) (src dst c : Nat) (h : s.dbuf.wf) :
    (s.decAfter src dst c).dbuf.wf ∧
    ∀ x ∈ (s.decAfter src dst c).dbuf, (dst ≤ x.1 ∧ x.1 < dst + 8 * c) ∨ x ∈ s.dbuf := by
  induction c with
  | zero => exact ⟨h, fun x hx => .inr hx⟩
  | succ c ih =>
    rw [s.decAfter_succ]
    refine ⟨Memory.writeBytes_wf ih.1 _ _, fun x hx => ?_⟩
    rcases Memory.mem_writeBytes hx with hx | hx
    · simp only [storeBlock_length] at hx
      exact .inl ⟨by omega, by omega⟩
    · rcases ih.2 x hx with hx | hx
      · exact .inl ⟨by omega, by omega⟩
      · exact .inr hx

end Sys2Proof.Machine
end

