-- ==== Sys2Proof/Laws/PerInstr.lean ====
section
/-! SUPPORT. Statements about each command as syntax, one lemma per constructor. -/

namespace Sys2Proof.Laws

/-- A command is well formed, its word has RSVD = 0, and its operation code is one of the seven of rule R92. -/
def OpcodeInRange.Statement (i : Instr) : Prop :=
  i.wellFormed = true ∧ rsvdOf (encode i) = 0 ∧ opcOf (encode i) = opcodeOf i ∧ (opcodeOf i).toNat ≤ 6

theorem OpcodeInRange.nop : OpcodeInRange.Statement .nop := by unfold OpcodeInRange.Statement; decide

theorem OpcodeInRange.new : OpcodeInRange.Statement .new := by unfold OpcodeInRange.Statement; decide

theorem OpcodeInRange.enc : OpcodeInRange.Statement .enc := by unfold OpcodeInRange.Statement; decide

theorem OpcodeInRange.dec : OpcodeInRange.Statement .dec := by unfold OpcodeInRange.Statement; decide

theorem OpcodeInRange.encb : OpcodeInRange.Statement .encb := by unfold OpcodeInRange.Statement; decide

theorem OpcodeInRange.decb : OpcodeInRange.Statement .decb := by unfold OpcodeInRange.Statement; decide

theorem OpcodeInRange.clear : OpcodeInRange.Statement .clear := by unfold OpcodeInRange.Statement; decide

end Sys2Proof.Laws
end

