-- ==== Sys2Proof/Laws/SPBox.lean ====
section
/-! SUPPORT. The Galois product, the bit permutation and the built SP tables (spec/40_spbox.md). -/

namespace Sys2Proof.Machine

/-- The multiplicand's step in `gfMult`: shift, then reduce where bit 8 is set (R126). -/
def gfShift (m a : BitVec 9) : BitVec 9 :=
  if (a <<< 1).getLsbD 8 then (a <<< 1) ^^^ m else a <<< 1

theorem gfMultLoop_zero (m : BitVec 9) (n : Nat) (a res : BitVec 9) : gfMultLoop m n a 0#8 res = res := by
  cases n <;> simp [gfMultLoop]

/-- One pass of the loop, without the test for b = 0. -/
theorem gfMultLoop_succ (m : BitVec 9) (n : Nat) (a : BitVec 9) (b : Byte) (res : BitVec 9) :
    gfMultLoop m (n + 1) a b res =
      gfMultLoop m n (gfShift m a) (b >>> 1) (if b.getLsbD 0 then res ^^^ a else res) := by
  by_cases h : b = 0
  · subst h
    simp [gfMultLoop_zero]
  · rw [gfMultLoop, if_neg h]
    rfl

theorem gfMultLoop_acc (m : BitVec 9) (n : Nat) (a : BitVec 9) (b : Byte) (res : BitVec 9) :
    gfMultLoop m n a b res = res ^^^ gfMultLoop m n a b 0 := by
  induction n generalizing a b res with
  | zero => simp [gfMultLoop]
  | succ n ih =>
    rw [gfMultLoop_succ, gfMultLoop_succ, ih, ih (res := if b.getLsbD 0 then 0 ^^^ a else 0)]
    split <;> simp [BitVec.xor_assoc]

theorem gfShift_xor (m a a' : BitVec 9) : gfShift m (a ^^^ a') = gfShift m a ^^^ gfShift m a' := by
  unfold gfShift
  rw [BitVec.shiftLeft_xor_distrib, BitVec.getLsbD_xor]
  cases h : (a <<< 1).getLsbD 8 <;> cases h' : (a' <<< 1).getLsbD 8 <;> simp
  · ac_rfl
  · ac_rfl
  · rw [show a <<< 1 ^^^ m ^^^ (a' <<< 1 ^^^ m) = a <<< 1 ^^^ a' <<< 1 ^^^ (m ^^^ m) by ac_rfl]
    simp

/-- The loop from a zero result is additive in the multiplicand. -/
theorem gfMultLoop_xor_left (m : BitVec 9) (n : Nat) (a a' : BitVec 9) (b : Byte) :
    gfMultLoop m n (a ^^^ a') b 0 = gfMultLoop m n a b 0 ^^^ gfMultLoop m n a' b 0 := by
  induction n generalizing a a' b with
  | zero => simp [gfMultLoop]
  | succ n ih =>
    rw [gfMultLoop_succ, gfMultLoop_succ, gfMultLoop_succ, gfShift_xor, gfMultLoop_acc, ih,
      gfMultLoop_acc m n (gfShift m a) _ (if b.getLsbD 0 then 0 ^^^ a else 0),
      gfMultLoop_acc m n (gfShift m a') _ (if b.getLsbD 0 then 0 ^^^ a' else 0)]
    split
    · simp
      ac_rfl
    · simp

/-- The loop from a zero result is additive in the multiplier. -/
theorem gfMultLoop_xor_right (m : BitVec 9) (n : Nat) (a : BitVec 9) (b b' : Byte) :
    gfMultLoop m n a (b ^^^ b') 0 = gfMultLoop m n a b 0 ^^^ gfMultLoop m n a b' 0 := by
  induction n generalizing a b b' with
  | zero => simp [gfMultLoop]
  | succ n ih =>
    rw [gfMultLoop_succ, gfMultLoop_succ, gfMultLoop_succ, BitVec.ushiftRight_xor_distrib, gfMultLoop_acc, ih,
      gfMultLoop_acc m n (gfShift m a) _ (if b.getLsbD 0 then 0 ^^^ a else 0),
      gfMultLoop_acc m n (gfShift m a) _ (if b'.getLsbD 0 then 0 ^^^ a else 0), BitVec.getLsbD_xor]
    cases b.getLsbD 0 <;> cases b'.getLsbD 0 <;> simp
    · ac_rfl
    · ac_rfl
    · rw [show ∀ x y : BitVec 9, a ^^^ x ^^^ (a ^^^ y) = a ^^^ a ^^^ (x ^^^ y) by intros; ac_rfl]
      simp

/-- `gfMult` is additive in both arguments (R126). -/
theorem gfMult_xor_left (a a' b : Byte) (m : BitVec 9) : gfMult (a ^^^ a') b m = gfMult a b m ^^^ gfMult a' b m := by
  unfold gfMult
  rw [BitVec.setWidth_xor, gfMultLoop_xor_left, BitVec.setWidth_xor]

theorem gfMult_xor_right (a b b' : Byte) (m : BitVec 9) : gfMult a (b ^^^ b') m = gfMult a b m ^^^ gfMult a b' m := by
  unfold gfMult
  rw [gfMultLoop_xor_right, BitVec.setWidth_xor]

/-- A bit of a fold of ORs. -/
theorem getLsbD_foldl_or (x : Word) (j : Nat) (ks : List Nat) (r : Word) :
    (ks.foldl (fun res k => if x.getLsbD k then res ||| pBox k else res) r).getLsbD j = true ↔
      r.getLsbD j = true ∨ ∃ k ∈ ks, x.getLsbD k = true ∧ (pBox k).getLsbD j = true := by
  induction ks generalizing r with
  | nil => simp
  | cons k ks ih =>
    rw [List.foldl_cons, ih]
    by_cases h : x.getLsbD k = true <;> simp [h, or_assoc]

/-- Bit j of `perm32 x` is set where some set bit k of x has bit j in `pBox[k]` (R129). -/
theorem getLsbD_perm32 (x : Word) (j : Nat) :
    (perm32 x).getLsbD j = true ↔ ∃ k < 32, x.getLsbD k = true ∧ (pBox k).getLsbD j = true := by
  unfold perm32
  rw [getLsbD_foldl_or]
  simp

/-- What the built SP tables hold (R132). -/
theorem spAt_spTables {t i : Nat} (ht : t < 4) (hi : i < 1024) : spAt spTables t i = spEntry t i := by
  simp [spAt, spTables, ht, hi]

/-- The built SP tables are four of 1024 words (R44). -/
theorem spTables_size : spTables.length = 4 ∧ ∀ t ∈ spTables, t.length = 1024 := by
  refine ⟨by simp [spTables], fun t ht => ?_⟩
  simp only [spTables, List.mem_map] at ht
  obtain ⟨a, _, rfl⟩ := ht
  simp

end Sys2Proof.Machine
end

