-- ==== Sys2Proof/Laws/Step.lean ====
section
/-! SUPPORT. What one step can do, said once. -/

namespace Sys2Proof.Machine

/-- One step is a turn of the engine, a host access, or a reset, according to the next event (R20, R22, R77). -/
theorem step_cases (s : State) :
    ((s.events = [] ∨ s.events.head? = some .engine) ∧ step s = engineTurn s.tick) ∨
    (∃ op, s.events.head? = some (.host op) ∧ step s = .next (s.tick.hostAccess op)) ∨
    (s.events.head? = some .reset ∧ step s = .next s.tick.resetEvent) := by
  unfold step
  cases h : s.events with
  | nil => exact .inl ⟨.inl rfl, rfl⟩
  | cons e rest =>
    cases e with
    | engine => exact .inl ⟨.inr rfl, rfl⟩
    | host op => exact .inr (.inl ⟨op, rfl, rfl⟩)
    | reset => exact .inr (.inr ⟨rfl, rfl⟩)

/-- One turn of the engine: nothing while idle, a command, or the failed completion of a reserved word (R22, R234). -/
theorem engineTurn_cases (s : State) :
    (s.cstate = .idle ∧ engineTurn s = .next s) ∨
    (s.cstate = .busy ∧ ∃ i, decode s.pend = some i ∧ engineTurn s = exec i s) ∨
    (s.cstate = .busy ∧ decode s.pend = none ∧ engineTurn s = .next (s.complete .illegal)) := by
  unfold engineTurn
  cases hc : s.cstate with
  | idle => exact .inl ⟨rfl, rfl⟩
  | busy =>
    cases hd : decode s.pend with
    | some i => exact .inr (.inl ⟨rfl, i, rfl, rfl⟩)
    | none => exact .inr (.inr ⟨rfl, rfl, rfl⟩)

/-- A run whose first step answers a next state goes on from it. -/
theorem run_succ (M : Host.Core) (k : Nat) {s t : M.State} (h : M.step s = .next t) :
    M.run (k + 1) s = M.run k t := by
  simp only [Host.Core.run]
  rw [h]

theorem core_run_next {s t : State} (h : step s = .next t) (k : Nat) :
    Sys2Proof.core.run (k + 1) s = Sys2Proof.core.run k t := run_succ Sys2Proof.core k h

end Sys2Proof.Machine
end

