-- ==== Sys2Proof/Machine/HostProgram.lean ====
section
/-! DEFINITION. The host notation of spec/30_encoding.md rules R100 to R102: the assembler's commands and
pseudo-instructions, and the schedule each expands to. Host control flow is outside the block (R103): `poll`
becomes the schedule in which the engine has its turn before the one read of STATUS that ends the loop. -/

namespace Sys2Proof.Machine

/-- The window offset of a register (R23). -/
def Reg.offset : Reg → Offset
  | .id => 0x000
  | .status => 0x004
  | .inten => 0x008
  | .cmd => 0x00C
  | .arg0 => 0x010
  | .arg1 => 0x014
  | .arg2 => 0x018
  | .result => 0x01C
  | .data0 => 0x020
  | .data1 => 0x024
  | .level => 0x028
  | .rounds => 0x02C
  | .keysize => 0x030
  | .blksize => 0x034
  | .caps0 => 0x038
  | .caps1 => 0x03C

/-- `DBUF+a` (R63, R101). -/
def dbufOffset (a : Nat) : Offset := BitVec.ofNat 16 (0x8000 + a)

/-- `wr32 <register>, v` (R101). -/
def wrReg (g : Reg) (v : Word) : Event := .host (.wr32 g.offset v)

/-- The pseudo-instructions of rule R102. -/
inductive Pseudo where
  | poll
  | issue (w : Word)
  | nop
  | new (level : Int) (koff klen : Word)
  | enc (src n dst : Word)
  | dec (src n dst : Word)
  | encb
  | decb
  | clear
  | ldbuf (a : Nat) (bytes : List Byte)
deriving Repr

/-- `poll`: the engine's turn, then the read of STATUS that finds BUSY = 0 (R102). -/
def pollEvents : List Event := [.engine, .host (.rd32 Reg.status.offset)]

/-- `issue w`: `wr32 CMD, w`, then `poll` (R102). -/
def issueEvents (w : Word) : List Event := wrReg .cmd w :: pollEvents

/-- Three operand writes, then `issue` (R102). -/
def issueArgs (a0 a1 a2 w : Word) : List Event :=
  wrReg .arg0 a0 :: wrReg .arg1 a1 :: wrReg .arg2 a2 :: issueEvents w

/-- `ldbuf a, b0 b1 …`: one 8-bit write per byte (R102). -/
def ldbufEvents : Nat → List Byte → List Event
  | _, [] => []
  | a, b :: bs => .host (.wr8 (dbufOffset a) b) :: ldbufEvents (a + 1) bs

/-- The expansions of rule R102. A level is written as its 32-bit two's-complement pattern. -/
def Pseudo.expand : Pseudo → List Event
  | .poll => pollEvents
  | .issue w => issueEvents w
  | .nop => issueEvents 0x00000000
  | .new level koff klen => issueArgs (BitVec.ofInt 32 level) koff klen 0x00000001
  | .enc src n dst => issueArgs src n dst 0x00000002
  | .dec src n dst => issueArgs src n dst 0x00000003
  | .encb => issueEvents 0x00000004
  | .decb => issueEvents 0x00000005
  | .clear => issueEvents 0x00000006
  | .ldbuf a bytes => ldbufEvents a bytes

end Sys2Proof.Machine
end

