-- ==== Sys2Proof/Tests/Slice0.lean ====
section
/-! SUPPORT. The model's own tests. Expected values are the spec's: its encoding (spec/30_encoding.md), its worked
examples and its vectors (spec/95_test_vectors.md), named in each group. The witnesses at the end show, for every
obligation with hypotheses, a concrete state that meets all of them. -/

namespace Sys2Proof.Tests

open Sys2Proof.Machine Sys2Proof.Stated

/-! ### Decoding: words written out from R91, R92 (RSVD in bits 31:8, OPC in bits 7:0) -/

theorem test_decode_nop : decode 0b00000000000000000000000000000000 = some .nop := by decide
theorem test_decode_new : decode 0b00000000000000000000000000000001 = some .new := by decide
theorem test_decode_enc : decode 0b00000000000000000000000000000010 = some .enc := by decide
theorem test_decode_dec : decode 0b00000000000000000000000000000011 = some .dec := by decide
theorem test_decode_encb : decode 0b00000000000000000000000000000100 = some .encb := by decide
theorem test_decode_decb : decode 0b00000000000000000000000000000101 = some .decb := by decide
theorem test_decode_clear : decode 0b00000000000000000000000000000110 = some .clear := by decide

/-- V9.3, V9.4, V9.5, and a word whose only fault is RSVD bit 31. -/
theorem test_decode_reserved :
    decode 0x00000107 = none ∧ decode 0x00000007 = none ∧ decode 0x000000FF = none ∧ decode 0x80000001 = none := by
  decide

theorem test_decodeTableWord : decodeTableWord 32 5 = some .decb ∧ decodeTableWord 32 0x106 = none := by decide

theorem test_withFetchWord_runs : decode (State.reset.withFetchWord 32 6).pend = some .clear ∧
    (State.reset.withFetchWord 32 6).cstate = .busy ∧
    (State.reset.withFetchWord 32 6).events.head? = some .engine := by decide

/-! ### Well-formedness: each check refuses an ill-formed term -/

theorem test_word_rsvd : wordWellFormed 0x00000100 = false := by decide
theorem test_word_opc : wordWellFormed 0x00000007 = false ∧ wordWellFormed 0x00000006 = true := by decide
theorem test_params_maxLevel : Params.legal ⟨65536, 64, .reject, .reject⟩ = false := by decide
theorem test_params_multiple : Params.legal ⟨1, 12, .reject, .reject⟩ = false := by decide
theorem test_params_small : Params.legal ⟨1, 0, .reject, .reject⟩ = false := by decide
theorem test_params_large : Params.legal ⟨1, 32776, .reject, .reject⟩ = false := by decide
theorem test_params_legal : Params.legal ⟨0, 8, .zeroPad, .truncate⟩ = true ∧ Config.params.legal = true := by decide

/-! ### The SP-box builder: R127, R128 and sections 2.1 to 2.4 of the vectors -/

theorem test_gfMult : gfMult 0x02 0x80 333 = 0x4D ∧ gfMult 0x53 0xCA 333 = 0x94 ∧ gfMult 0xFF 0xFF 505 = 0x7B ∧
    gfMult 0x57 0x83 283 = 0xC1 := by decide
theorem test_gfExp7 : gfExp7 0x00 333 = 0x00 ∧ gfExp7 0x02 333 = 0x80 ∧ gfExp7 0x83 333 = 0x17 ∧
    gfExp7 0xFF 505 = 0x1C ∧ gfExp7 0x80 397 = 0x6E := by decide
theorem test_perm32 : perm32 0x000000FF = 0x41282481 ∧ perm32 0xFF000000 = 0x82141842 ∧
    perm32 0x12345678 = 0x056F2360 := by decide
theorem test_spIndex : spCol 0x155 = 0xAA ∧ spRow 0x155 = 1 ∧ spCol 0x200 = 0 ∧ spRow 0x200 = 2 := by decide
theorem test_spEntry : spEntry 0 0 = 0x00040842 ∧ spEntry 1 510 = 0x00428200 ∧ spEntry 2 513 = 0x00014108 ∧
    spEntry 3 1023 = 0x40080080 := by decide +kernel

/-! ### The round function: section 2.5 -/

theorem test_expand : expandL 0x12345678 = 0x04A34 ∧ expandR 0x12345678 = 0x15A78 ∧
    expandL 0x80000000 = 0x20000 ∧ expandR 0x00000300 = 0x00F00 := by decide

/-- F(p, (12345, 6789A, BCDEF)) of section 2.5: al and ar after R171, looked up in the entry function. -/
theorem test_roundF :
    (let al := saltL 0x12345678 ⟨0x12345, 0x6789A, 0xBCDEF⟩ ^^^ 0x12345
     let ar := saltR 0x12345678 ⟨0x12345, 0x6789A, 0xBCDEF⟩ ^^^ 0x6789A
     spEntry 0 (al >>> 10).toNat ||| spEntry 1 (al &&& 0x3ff).toNat |||
       spEntry 2 (ar >>> 10).toNat ||| spEntry 3 (ar &&& 0x3ff).toNat) = 0xA86A4CFC := by decide +kernel

/-! ### The key schedule: V6.1, V6.2, V6.3, V6.5, V6.6 -/

def keyK1 : List Byte := [0xDE, 0xAD, 0xBE, 0xEF, 0x01, 0x23, 0x45, 0x67]

theorem test_loadKB : loadKB keyK1 0 = ⟨0x4567, 0x0123, 0xBEEF, 0xDEAD⟩ := by decide
theorem test_rotInv : rotInv 0x4567 = 0x22B3 ∧ rotInv 0x0000 = 0x8000 ∧ rotInv 0xFFFF = 0x7FFF := by decide
theorem test_fillTriple : (fillTriple 0 (loadKB keyK1 0)).1 = ⟨0xF3A33, 0xE03B2, 0xBFC39⟩ := by decide +kernel
theorem test_thin_schedule :
    subkeyAt (buildThin keyK1 (List.replicate 8 ⟨0, 0, 0⟩)).1 7 = ⟨0x33340, 0xB20C5, 0x391FC⟩ := by decide +kernel
theorem test_level1_schedule :
    subkeyAt (buildMulti keyK1 1 16 (List.replicate 16 ⟨0, 0, 0⟩, ⟨0, 0, 0, 0⟩)).1 8 = ⟨0x69CD0, 0x9997F, 0x8BF65⟩ ∧
    subkeyAt (buildMulti keyK1 1 16 (List.replicate 16 ⟨0, 0, 0⟩, ⟨0, 0, 0, 0⟩)).1 15 =
      ⟨0xB0CE8, 0xEF3C6, 0xCACCC⟩ := by decide +kernel
theorem test_decodeLevel :
    decodeLevel ⟨2, 64, .reject, .reject⟩ 0xFFFFFFFB = some ⟨0, 8, 8⟩ ∧
    decodeLevel ⟨2, 64, .reject, .reject⟩ 0x80000000 = some ⟨0, 8, 8⟩ ∧
    decodeLevel ⟨2, 64, .reject, .reject⟩ 2 = some ⟨2, 32, 16⟩ ∧
    decodeLevel ⟨2, 64, .reject, .reject⟩ 3 = none := by decide

/-! ### A small machine -/

/-- MAX_LEVEL = 1, DBUF_BYTES = 64, both policies REJECT. -/
def small : Params := ⟨1, 64, .reject, .reject⟩

/-- The small machine after reset. -/
def base : State := State.resetWith small [] 0

/-- The small machine with the thin instance of an all-zero schedule, as NEW and then CLEAR leave it. -/
def keyed : State :=
  { base with spbv := true, keyv := true, rounds := 8, keysize := 8, sp := spTables }

/-- ENC or DEC of 16 bytes at 0 to the last 16 bytes of DBUF. -/
def keyedBlocks : State := { keyed with arg0 := 0, arg1 := 16, arg2 := 48 }

/-- What one step leaves, or the state itself where the step does not go on. -/
def after (s : State) : State :=
  match step s with
  | .next t => t
  | .fault _ => s
  | .refused _ => s

theorem step_eq_after (s : State) : step s = .next (after s) := by
  unfold after
  cases h : step s with
  | next t => rfl
  | fault r => cases r
  | refused r =>
    exfalso
    rcases step_cases s with ⟨_, h'⟩ | ⟨_, _, h'⟩ | ⟨_, h'⟩
    · rcases engineTurn_cases s.tick with ⟨_, h''⟩ | ⟨_, i, _, h''⟩ | ⟨_, _, h''⟩
      · rw [h', h''] at h
        cases h
      · rcases exec_cases i s.tick with ⟨_, _, e⟩ | ⟨_, e, _⟩ <;> rw [h', h'', e] at h <;> cases h
      · rw [h', h''] at h
        cases h
    · rw [h'] at h
      cases h
    · rw [h'] at h
      cases h

/-! ### Commands and errors: section 2.9 -/

/-- V9.2: ENC after reset, STATUS = 0x00000208. -/
theorem test_enc_noKey : (after (base.withPending 2)).statusWord = 0x00000208 := by decide

/-- V9.11: DEC of 12 bytes without an instance is E_NOKEY, not E_INLEN. -/
theorem test_dec_noKey : (after ({ base with arg1 := 12 }.withPending 3)).err = 0x02 := by decide

/-- V9.3: a reserved word, STATUS = 0x00000108 (P3 step 3). -/
theorem test_reserved_word : (after (base.withPending 0x107)).statusWord = 0x00000108 := by decide

/-- V9.6: NEW with level 65536 is E_LEVEL. -/
theorem test_new_level : (after ({ base with arg0 := 0x00010000 }.withPending 1)).statusWord = 0x00000308 := by decide

/-- V9.7: NEW with koff 32768 is E_RANGE. -/
theorem test_new_range :
    (after ({ base with arg1 := 0x8000, arg2 := 8 }.withPending 1)).statusWord = 0x00000408 := by decide

/-- V8.8: DEC of 12 bytes under REJECT is E_INLEN (V9.12: before E_RANGE). -/
theorem test_dec_inLen :
    (after ({ keyed with arg0 := 0xFFFFFFF0, arg1 := 12 }.withPending 3)).err = 0x06 := by decide

/-- V8.11 and V8.12: ENC that leaves DBUF, one sum just above and one that would wrap. -/
theorem test_enc_range :
    (after ({ keyed with arg1 := 3, arg2 := 60 }.withPending 2)).err = 0x04 ∧
    (after ({ keyed with arg0 := 0xFFFFFFFF, arg1 := 2 }.withPending 2)).err = 0x04 := by decide

/-- R190: the padded lengths of 3, 8 and 0 bytes. -/
theorem test_paddedLen : paddedLen 3 = 8 ∧ paddedLen 8 = 8 ∧ paddedLen 0 = 0 ∧ wholeLen 12 = 8 := by decide

/-- V8.7's lengths under TRUNCATE: RESULT of DEC of 12 bytes is 8. -/
theorem test_dec_truncate :
    { keyed with cfg := ⟨1, 64, .reject, .truncate⟩, arg1 := 12, arg2 := 16 }.decCheck = none := by decide

/-- V9.10: NOP after an error leaves ERR = 0x00 and DONE = 1. -/
theorem test_nop : (after ({ base with err := 0x02 }.withPending 0)).statusWord = 0x00000008 := by decide

/-- V9.9: CLEAR after reset succeeds and leaves KEYV = 0. -/
theorem test_clear : (after (base.withPending 6)).statusWord = 0x00000008 := by decide

/-- ENCB without an instance is E_NOKEY, and so is DECB. -/
theorem test_encb_noKey : (after (base.withPending 4)).err = 0x02 ∧ (after (base.withPending 5)).err = 0x02 := by
  decide

/-- K1: the thin key deadbeef01234567 takes fedcba9876543210 to de240d83a00a9cc0. -/
theorem test_known_answer_thin :
    storeBlock (encryptHalves spTables (buildThin keyK1 (List.replicate 8 ⟨0, 0, 0⟩)).1 8
      (loadBlock [0xFE, 0xDC, 0xBA, 0x98, 0x76, 0x54, 0x32, 0x10])) =
      [0xDE, 0x24, 0x0D, 0x83, 0xA0, 0x0A, 0x9C, 0xC0] := by decide +kernel

/-- V7.2 a, the Dec column. -/
theorem test_known_answer_thin_decrypt :
    storeBlock (decryptHalves spTables (buildThin keyK1 (List.replicate 8 ⟨0, 0, 0⟩)).1 8
      (loadBlock [0xFE, 0xDC, 0xBA, 0x98, 0x76, 0x54, 0x32, 0x10])) =
      [0x3B, 0xC0, 0xA9, 0x58, 0xA6, 0xDD, 0xDD, 0x35] := by decide +kernel

/-! ### The register window: V9.1, V9.14 to V9.19, R71 -/

theorem test_reset_reads :
    (base.hostAccess (.rd32 0x000)).port = .data32 0x49434531 ∧
    (base.hostAccess (.rd32 0x034)).port = .data32 8 ∧
    (base.hostAccess (.rd32 0x004)).port = .data32 0 := by decide

/-- V9.14 and V9.15. -/
theorem test_status_w1c :
    ({ base with done := true, ovr := true, err := 0x02 }.hostAccess (.wr32 0x004 8)).statusWord = 0x00000210 ∧
    ({ base with done := true, ovr := true, err := 0x02 }.hostAccess (.wr32 0x004 0xFFFFFFFF)).statusWord =
      0x00000200 := by decide

/-- V9.16. -/
theorem test_irq :
    { base with done := true, doneie := true }.irq = true ∧
    ({ base with done := true, doneie := true }.hostAccess (.wr32 0x004 8)).irq = false := by decide

/-- V9.17 and V9.18: a DATA0 write before and after the execute step. -/
theorem test_write_while_busy :
    ((base.issue 4).hostAccess (.wr32 0x020 0x11111111)).data0 = 0 ∧
    ((base.issue 4).hostAccess (.wr32 0x020 0x11111111)).ovr = true ∧
    (base.hostAccess (.wr32 0x020 0x11111111)).data0 = 0x11111111 := by decide

/-- V9.19: the second issue is dropped. -/
theorem test_issue_while_busy : ((base.issue 2).hostAccess (.wr32 0x00C 6)).pend = 2 := by decide

/-- R71: the mixed-width view. -/
theorem test_mixed_width :
    ((base.memWrite 0 [1, 2, 3, 4]).hostAccess (.rd32 0x8000)).port = .data32 0x01020304 ∧
    ((base.hostAccess (.wr32 0x8004 0xA1B2C3D4)).hostAccess (.rd8 0x8004)).port = .data8 0xA1 ∧
    ((base.hostAccess (.wr32 0x8004 0xA1B2C3D4)).hostAccess (.rd8 0x8007)).port = .data8 0xD4 := by decide

/-- R64, R65, R69: accesses at the edges of the window that are bus errors. -/
theorem test_bus_errors :
    (base.hostAccess (.wr32 0x040 0)).port = .writeError ∧ (base.hostAccess (.wr32 0x8040 0)).port = .writeError ∧
    (base.hostAccess (.wr8 0x020 0)).port = .writeError ∧ (base.hostAccess (.wr32 0x8002 0)).port = .writeError := by
  decide

/-- R102: the expansion of `ice.new -5, 0, 8` (P3 step 7). -/
theorem test_expand_new :
    (Pseudo.new (-5) 0 8).expand =
      [.host (.wr32 0x010 0xFFFFFFFB), .host (.wr32 0x014 0), .host (.wr32 0x018 8), .host (.wr32 0x00C 1), .engine,
       .host (.rd32 0x004)] := by decide

/-! ### Witnesses: for each obligation with hypotheses, a state and operands that meet all of them -/

theorem witness_DecodeOfEncodeIsTheCommand : Instr.wellFormed .clear = true := rfl

/-- The three ways a word is reserved, with and without an engine turn in the schedule. -/
theorem witness_ReservedWordFailsIllegal :
    ((base.issue 0x107).cstate = .busy ∧ engineNext (base.issue 0x107) ∧
      (base.issue 0x107).pend.extractLsb' 8 24 ≠ 0) ∧
    ((base.withPending 7).cstate = .busy ∧ engineNext (base.withPending 7) ∧
      0x07 ≤ ((base.withPending 7).pend.extractLsb' 0 8).toNat) ∧
    0x07 ≤ ((base.withPending 0xFF).pend.extractLsb' 0 8).toNat :=
  ⟨⟨rfl, .inl rfl, by decide⟩, ⟨rfl, .inr rfl, by decide⟩, by decide⟩

theorem witness_StepRunsTheDecodedCommand :
    Instr.wellFormed .encb = true ∧ (keyed.withPending 4).cstate = .busy ∧ engineNext (keyed.withPending 4) ∧
      decode (keyed.withPending 4).pend = some .encb := ⟨rfl, rfl, .inr rfl, by decide⟩

theorem witness_StepTakesTheNextEvent :
    ({ base with events := [.host (.rd32 0x004)] } : State).events.head? = some (.host (.rd32 0x004)) ∧
    (base.cstate = .idle ∧ engineNext base) := ⟨rfl, rfl, .inl rfl⟩

/-- A command issued behind a host write, with no reset in the schedule. -/
theorem witness_IssuedCommandIsEventuallyExecuted :
    ({ base.issue 4 with events := [.host (.wr32 0x010 1), .engine] } : State).cstate = .busy ∧
    Event.reset ∉ ({ base.issue 4 with events := [.host (.wr32 0x010 1), .engine] } : State).events :=
  ⟨rfl, by decide⟩

theorem witness_NoCommandWritesOperandsOrInten : exec .nop base = .next base.succeed := rfl

/-- NOP is none of the commands the clauses name. -/
theorem witness_OnlyTheNamedCommandsWrite :
    exec .nop base = .next base.succeed ∧ Instr.nop ≠ .new ∧ Instr.nop ≠ .clear ∧ Instr.nop ≠ .encb ∧
      Instr.nop ≠ .decb ∧ Instr.nop ≠ .enc ∧ Instr.nop ≠ .dec := ⟨rfl, by decide⟩

/-- A successful ENC and DEC, with the bytes just below and just above what they store to. -/
theorem witness_EncAndDecStoreOnlyTheirOutput :
    (exec .enc { keyed with arg1 := 3, arg2 := 8 } =
        .next ({ keyed with arg1 := 3, arg2 := 8 } : State).encRun.succeed ∧
      7 < (8 : Word).toNat ∧ (8 : Word).toNat + paddedLen (3 : Word).toNat ≤ 16) ∧
    (exec .dec { keyed with arg1 := 8, arg2 := 8 } =
        .next ({ keyed with arg1 := 8, arg2 := 8 } : State).decRun.succeed ∧
      7 < (8 : Word).toNat ∧ (8 : Word).toNat + wholeLen (8 : Word).toNat ≤ 16) :=
  ⟨⟨rfl, by decide, by decide⟩, ⟨rfl, by decide, by decide⟩⟩

theorem witness_FailedCommandWritesNothingElse :
    exec .enc base = .next (base.failWith .noKey) ∧ (base.failWith .noKey).err ≠ 0x00 := ⟨rfl, by decide⟩

theorem witness_CommandsIgnoreUnmarkedOperands :
    exec .encb keyed = .next (keyed.putHalves (keyed.encHalves keyed.dataHalves)).succeed ∧
    exec .dec keyedBlocks = .next keyedBlocks.decRun.succeed := ⟨rfl, rfl⟩

theorem witness_ValidFlagsClearOnlyByReset :
    step (keyed.withPending 0) = .next (after (keyed.withPending 0)) ∧
    (keyed.withPending 0).events.head? ≠ some .reset ∧ (keyed.withPending 0).spbv = true ∧
    (keyed.withPending 0).keyv = true := ⟨step_eq_after _, by decide, rfl, rfl⟩

/-- DONE set, then cleared by the host and by reset. -/
theorem witness_DoneClearsOnlyByWriteOrReset :
    (let s := { base with done := true, events := [.host (.wr32 0x004 8)] }
     step s = .next (after s) ∧ s.done = true ∧ (after s).done = false) ∧
    (let s := { base with done := true, events := [.reset] }
     step s = .next (after s) ∧ s.done = true ∧ (after s).done = false) :=
  ⟨⟨step_eq_after _, rfl, by decide⟩, ⟨step_eq_after _, rfl, by decide⟩⟩

/-- OVR set by a dropped CMD write, and cleared by the host. -/
theorem witness_OverrunSetAndClearedOnlyByTheHost :
    (let s := { base.issue 2 with events := [.host (.wr32 0x00C 6)] }
     step s = .next (after s) ∧ s.ovr = false ∧ (after s).ovr = true) ∧
    (let s := { base with ovr := true, events := [.host (.wr32 0x004 0x10)] }
     step s = .next (after s) ∧ s.ovr = true ∧ (after s).ovr = false) :=
  ⟨⟨step_eq_after _, rfl, by decide⟩, ⟨step_eq_after _, rfl, by decide⟩⟩

theorem witness_StepKeepsTheParameters : step base = .next (after base) := step_eq_after base

/-- A keyed state meets the invariant, and steps. -/
theorem witness_StepKeepsTheInvariant :
    (keyed.withPending 4).Inv ∧ step (keyed.withPending 4) = .next (after (keyed.withPending 4)) := by
  refine ⟨?_, step_eq_after _⟩
  exact {
    params := rfl
    dbufSorted := List.Pairwise.nil
    dbufBound := fun c hc => absurd hc List.not_mem_nil
    ksSize := rfl
    spSize := spTables_size
    errRange := by decide
    spBuilt := fun _ => rfl
    keyed := fun _ => ⟨rfl, .inl ⟨rfl, rfl, rfl⟩⟩
    unkeyed := fun h => absurd h (by decide) }

theorem witness_ClearZeroesTheSchedule : keyed.ks.length = keyed.cfg.ksEntries := by decide

theorem witness_ClearTwiceIsClearOnce : ∃ t, exec .clear keyed = .next t := ⟨_, rfl⟩

theorem witness_AfterClearEncryptionIsAnInvolution :
    (∃ t, exec .clear keyed = .next t ∧ t.rounds.toNat % 2 = 0) ∧ keyK1.length = 8 := ⟨⟨_, rfl, by decide⟩, rfl⟩

/-- The first value each check of NEW refuses: level 2 of 1, one byte beyond DBUF, seven key bytes. -/
theorem witness_NewChecksInOrder :
    (let s := { base with arg0 := 2 }
     (s.cfg.maxLevel : Int) < s.arg0.toInt) ∧
    (let s := { base with arg0 := 1, arg1 := 57, arg2 := 8 }
     s.arg0.toInt ≤ (s.cfg.maxLevel : Int) ∧ s.cfg.dbufBytes < s.arg1.toNat + s.arg2.toNat) ∧
    (let s := { base with arg0 := 1, arg1 := 57, arg2 := 7 }
     s.arg0.toInt ≤ (s.cfg.maxLevel : Int) ∧ s.arg1.toNat + s.arg2.toNat ≤ s.cfg.dbufBytes ∧
       s.arg2.toNat < keySizeOf s.arg0 ∧ s.cfg.shortKey = .reject) := by decide

/-- Level operand −2^31 and 0, the key at the end of DBUF; and an empty key under ZERO_PAD. -/
theorem witness_NewBuildsTheThinInstance :
    (let s := { base with arg0 := 0x80000000, arg1 := 56, arg2 := 8 }
     s.cfg.legal = true ∧ s.ks.length = s.cfg.ksEntries ∧ s.arg0.toInt < 1 ∧
       s.arg1.toNat + s.arg2.toNat ≤ s.cfg.dbufBytes ∧ 8 ≤ s.arg2.toNat ∧ s.spbv = false) ∧
    (let s := { keyed with cfg := ⟨1, 64, .zeroPad, .reject⟩ }
     s.cfg.legal = true ∧ s.ks.length = s.cfg.ksEntries ∧ s.arg0.toInt < 1 ∧
       s.arg1.toNat + s.arg2.toNat ≤ s.cfg.dbufBytes ∧ s.cfg.shortKey = .zeroPad ∧ s.spbv = true) := by decide

/-- Level MAX_LEVEL with exactly its key bytes; and with none under ZERO_PAD. -/
theorem witness_NewBuildsTheLevelledInstance :
    (let s := { base with arg0 := 1, arg1 := 56, arg2 := 8 }
     s.cfg.legal = true ∧ s.ks.length = s.cfg.ksEntries ∧ s.arg0.toInt = ((1 : Nat) : Int) ∧ 1 ≤ s.cfg.maxLevel ∧
       s.arg1.toNat + s.arg2.toNat ≤ s.cfg.dbufBytes ∧ 8 * 1 ≤ s.arg2.toNat ∧ s.spbv = false) ∧
    (let s := { keyed with cfg := ⟨1, 64, .zeroPad, .reject⟩, arg0 := 1 }
     s.cfg.legal = true ∧ s.ks.length = s.cfg.ksEntries ∧ s.arg0.toInt = ((1 : Nat) : Int) ∧ 1 ≤ s.cfg.maxLevel ∧
       s.arg1.toNat + s.arg2.toNat ≤ s.cfg.dbufBytes ∧ s.cfg.shortKey = .zeroPad ∧ s.spbv = true) := by decide

/-- A thin NEW, and another schedule of the same size. -/
theorem witness_NewDoesNotDependOnThePreviousSchedule :
    (let s := { base with arg2 := 8 }
     exec .new s = .next (s.construct ⟨0, 8, 8⟩).succeed ∧ (s.construct ⟨0, 8, 8⟩).succeed.err = 0x00 ∧
       s.ks.length = s.cfg.ksEntries ∧ (List.replicate 16 (⟨1, 2, 3⟩ : Subkey)).length = s.cfg.ksEntries ∧
       s.cfg.legal = true) := ⟨rfl, rfl, rfl, rfl, rfl⟩

theorem witness_FillPlacesEveryBit : 0 + 8 ≤ keyed.ks.length ∧ 8 + 8 ≤ keyed.ks.length := by decide

/-- A set bit of SP-box 0, at the place of bit 24. -/
theorem witness_SPBoxOutputsAreDisjoint : (spEntry 0 0).getLsbD 1 = true ∧ pBoxDest 24 = 1 := by decide +kernel

theorem witness_EncbEncryptsInPlace : keyed.keyv = true := rfl

theorem witness_DecbDecryptsInPlace : keyed.keyv = true := rfl

theorem witness_DecryptionInvertsEncryption : keyed.rounds.toNat % 2 = 0 ∧ keyK1.length = 8 := by decide

theorem witness_PalindromicScheduleMakesThemEqual :
    keyed.rounds.toNat % 2 = 0 ∧ keyK1.length = 8 ∧
    ∀ i < keyed.rounds.toNat, subkeyAt keyed.ks i = subkeyAt keyed.ks (keyed.rounds.toNat - 1 - i) := by decide

theorem witness_DecbRestoresWhatEncbEncrypted : keyed.keyv = true ∧ keyed.rounds.toNat % 2 = 0 := by decide

theorem witness_BlockCommandsNeedAnInstance : base.keyv = false ∧ (Instr.decb = .enc ∨ Instr.decb = .dec ∨
    Instr.decb = .encb ∨ Instr.decb = .decb) := by decide

/-- One byte beyond DBUF at the source, and at the padded destination. -/
theorem witness_EncChecksItsRegions :
    (let s := { keyed with arg0 := 62, arg1 := 3 }
     s.keyv = true ∧ s.cfg.dbufBytes < s.arg0.toNat + s.arg1.toNat) ∧
    (let s := { keyed with arg1 := 3, arg2 := 57 }
     s.keyv = true ∧ s.cfg.dbufBytes < s.arg2.toNat + 8 * ((s.arg1.toNat + 7) / 8)) := by decide

/-- A partial block under REJECT; a whole block, and a partial one under TRUNCATE, one byte beyond DBUF. -/
theorem witness_DecChecksInOrder :
    (let s := { keyed with arg0 := 62, arg1 := 12 }
     s.keyv = true ∧ s.arg1.toNat % 8 ≠ 0 ∧ s.cfg.decPartial = .reject) ∧
    (let s := { keyed with arg0 := 57, arg1 := 8 }
     s.keyv = true ∧ s.arg1.toNat % 8 = 0 ∧ s.cfg.dbufBytes < s.arg0.toNat + s.arg1.toNat) ∧
    (let s := { keyed with cfg := ⟨1, 64, .reject, .truncate⟩, arg1 := 12, arg2 := 57 }
     s.keyv = true ∧ s.cfg.decPartial = .truncate ∧ s.cfg.dbufBytes < s.arg2.toNat + 8 * (s.arg1.toNat / 8)) := by
  decide

/-- Source and destination end exactly at the end of DBUF. -/
theorem witness_EncIsTheSequentialResult :
    (let s := { keyed with arg0 := 61, arg1 := 3, arg2 := 56 }
     s.cfg.legal = true ∧ s.keyv = true ∧ s.arg0.toNat + s.arg1.toNat ≤ s.cfg.dbufBytes ∧
       s.arg2.toNat + 8 * ((s.arg1.toNat + 7) / 8) ≤ s.cfg.dbufBytes) := by decide

theorem witness_DecIsTheSequentialResult :
    (let s := { keyed with arg0 := 56, arg1 := 8, arg2 := 56 }
     s.cfg.legal = true ∧ s.keyv = true ∧ s.arg1.toNat % 8 = 0 ∧ s.arg0.toNat + s.arg1.toNat ≤ s.cfg.dbufBytes ∧
       s.arg2.toNat + 8 * (s.arg1.toNat / 8) ≤ s.cfg.dbufBytes) ∧
    (let s := { keyed with cfg := ⟨1, 64, .reject, .truncate⟩, arg0 := 52, arg1 := 12, arg2 := 56 }
     s.cfg.legal = true ∧ s.keyv = true ∧ s.cfg.decPartial = .truncate ∧
       s.arg0.toNat + s.arg1.toNat ≤ s.cfg.dbufBytes ∧
       s.arg2.toNat + 8 * (s.arg1.toNat / 8) ≤ s.cfg.dbufBytes) := by decide

/-- Two blocks apart, and in place. -/
theorem witness_BlocksAreIndependentWithoutOverlap :
    (exec .enc keyedBlocks = .next keyedBlocks.encRun.succeed ∧ keyedBlocks.encRun.succeed.err = 0x00 ∧
      keyedBlocks.arg0.toNat + keyedBlocks.arg1.toNat ≤ keyedBlocks.arg2.toNat ∧
      1 < (keyedBlocks.arg1.toNat + 7) / 8) ∧
    (let s := { keyedBlocks with arg2 := 0 }
     exec .dec s = .next s.decRun.succeed ∧ s.decRun.succeed.err = 0x00 ∧ s.arg2.toNat ≤ s.arg0.toNat ∧
       1 < s.arg1.toNat / 8) := ⟨⟨rfl, rfl, by decide⟩, ⟨rfl, rfl, by decide⟩⟩

/-- A zero length with both offsets at the end of DBUF, and with one beyond it. -/
theorem witness_ZeroLengthSucceeds :
    (let s := { keyed with arg0 := 64, arg2 := 64 }
     s.keyv = true ∧ s.arg1 = 0 ∧ s.arg0.toNat ≤ s.cfg.dbufBytes ∧ s.arg2.toNat ≤ s.cfg.dbufBytes) ∧
    (let s := { keyed with arg0 := 64, arg2 := 65 }
     s.keyv = true ∧ s.arg1 = 0 ∧ ¬ s.arg2.toNat ≤ s.cfg.dbufBytes) := by decide

/-- ENC of 3 bytes at 0 to 8, then DEC of its 8 bytes to 56. -/
theorem witness_DecOfEncRestoresTheInput :
    (let s := { keyed with arg1 := 3, arg2 := 8 }
     let t := s.encRun.succeed
     let u := { t with arg0 := 8, arg1 := 8, arg2 := 56 }
     let v := u.decRun.succeed
     exec .enc s = .next t ∧ t.err = 0x00 ∧ s.cfg.legal = true ∧ s.rounds.toNat % 2 = 0 ∧
       s.arg0.toNat + s.arg1.toNat ≤ s.arg2.toNat ∧
       u.sp = t.sp ∧ u.ks = t.ks ∧ u.rounds = t.rounds ∧ u.dbuf = t.dbuf ∧
       u.arg0 = t.arg2 ∧ u.arg1 = t.result ∧ u.arg0.toNat + u.arg1.toNat ≤ u.arg2.toNat ∧
       exec .dec u = .next v ∧ v.err = 0x00) :=
  ⟨rfl, rfl, rfl, rfl, by decide, rfl, rfl, rfl, rfl, rfl, rfl, by decide, rfl, rfl⟩

theorem witness_CommandWriteIssuesOrOverruns : base.cstate = .idle ∧ (base.issue 4).cstate = .busy := ⟨rfl, rfl⟩

theorem witness_OperandAndReadOnlyWrites :
    base.cstate = .idle ∧ (0x000 : Offset) ∈ ([0x000, 0x01C, 0x028, 0x02C, 0x030, 0x034, 0x038, 0x03C] : List Offset) ∧
      (0x03C : Offset) ∈ ([0x000, 0x01C, 0x028, 0x02C, 0x030, 0x034, 0x038, 0x03C] : List Offset) := by decide

/-- The first and the last DBUF byte and word. -/
theorem witness_WritesWhileBusyAreDropped :
    (base.issue 4).cstate = .busy ∧ (0x00C : Offset) ∈ ([0x00C, 0x010, 0x014, 0x018, 0x020, 0x024] : List Offset) ∧
    (0x8000 ≤ (0x8000 : Offset).toNat ∧ (0x8000 : Offset).toNat < 0x8000 + (base.issue 4).cfg.dbufBytes) ∧
    ((0x803F : Offset).toNat < 0x8000 + (base.issue 4).cfg.dbufBytes) ∧ (0x803C : Offset).toNat % 4 = 0 := by decide

theorem witness_RegisterReads : base.cstate = .idle := rfl

theorem witness_HostReadsHaveNoSideEffect : isRead (.rd16 0) = true := rfl

/-- Each width just outside what it may reach. -/
theorem witness_BusErrorsChangeNothing :
    illegalAccess small (.rd8 0x003F) ∧ illegalAccess small (.wr8 0x8040 0) ∧ illegalAccess small (.rd16 0x8000) ∧
    illegalAccess small (.wr16 0x000 0) ∧ illegalAccess small (.rd32 0x040) ∧ illegalAccess small (.rd32 0x7FFC) ∧
    illegalAccess small (.wr32 0x8040 0) ∧ illegalAccess small (.wr32 0x8002 0) ∧
    illegalAccess small (.rd32 0x001) := by
  unfold illegalAccess
  decide

/-- The first and the last word of DBUF. -/
theorem witness_DbufAccessesAreBigEndian :
    base.cstate = .idle ∧ (0x8000 : Offset).toNat = 0x8000 + 0 ∧ 0 < base.cfg.dbufBytes ∧
      (0x803C : Offset).toNat = 0x8000 + 60 ∧ 60 < base.cfg.dbufBytes ∧ 60 % 4 = 0 := by decide

theorem witness_CompletionRaisesTheInterrupt :
    exec .nop base = .next base.succeed ∧ (8 : Word).getLsbD 3 = true := ⟨rfl, rfl⟩

theorem witness_ResetGivesTheTableOfValues :
    ({ keyed.issue 2 with events := [.reset] } : State).events.head? = some .reset := rfl

/-- ENC of 16 bytes, and DEC, issued and then reset. -/
theorem witness_ResetWhileBusyAbandonsTheCommand :
    (let s := { keyedBlocks.issue 2 with events := [.reset] }
     s.events.head? = some .reset ∧ s.cstate = .busy ∧ decode s.pend = some .enc ∧ step s = .next (after s) ∧
       exec .enc s.tick = .next s.tick.encRun.succeed ∧ s.tick.encRun.succeed.err = 0x00 ∧
       15 < paddedLen s.arg1.toNat) ∧
    (let s := { keyedBlocks.issue 3 with events := [.reset] }
     s.events.head? = some .reset ∧ s.cstate = .busy ∧ decode s.pend = some .dec ∧ step s = .next (after s) ∧
       exec .dec s.tick = .next s.tick.decRun.succeed ∧ s.tick.decRun.succeed.err = 0x00 ∧
       15 < wholeLen s.arg1.toNat) :=
  ⟨⟨rfl, rfl, by decide, step_eq_after _, rfl, rfl, by decide⟩,
   ⟨rfl, rfl, by decide, step_eq_after _, rfl, rfl, by decide⟩⟩

end Sys2Proof.Tests
end

section
/-! The implementation parameters (R5) through each part of a step: the commands' effects, the engine's turn and
the host port. -/

namespace Sys2Proof.Machine

@[simp] theorem State.construct_cfg (s : State) (sel : LevelSel) : (s.construct sel).cfg = s.cfg := by
  rw [State.construct_eq]

@[simp] theorem State.encRun_cfg (s : State) : s.encRun.cfg = s.cfg := by
  obtain ⟨d, l, r, he⟩ := s.encRun_frame
  rw [he]

@[simp] theorem State.decRun_cfg (s : State) : s.decRun.cfg = s.cfg := by
  obtain ⟨d, l, r, he⟩ := s.decRun_frame
  rw [he]

/-- A command keeps the parameters, completed with or without an error. -/
theorem exec_cfg {i : Instr} {s t : State} (h : exec i s = .next t) : t.cfg = s.cfg := by
  rcases exec_cases i s with ⟨e, -, hx⟩ | ⟨u, hx, hu⟩
  · obtain rfl : s.complete e = t := by simpa [hx] using h
    exact s.complete_cfg e
  · obtain rfl : u.complete .ok = t := by simpa [hx] using h
    rw [State.complete_cfg]
    cases i with
    | nop => rw [hu]
    | clear => rw [hu]
    | new =>
      obtain ⟨sel, -, rfl⟩ := hu
      exact s.construct_cfg sel
    | enc => rw [hu.2, State.encRun_cfg]
    | dec => rw [hu.2, State.decRun_cfg]
    | encb => rw [hu.2, State.putHalves_cfg]
    | decb => rw [hu.2, State.putHalves_cfg]

theorem engineTurn_cfg {s t : State} (h : engineTurn s = .next t) : t.cfg = s.cfg := by
  rcases engineTurn_cases s with ⟨-, hx⟩ | ⟨-, i, -, hx⟩ | ⟨-, -, hx⟩
  · obtain rfl : s = t := by simpa [hx] using h
    rfl
  · exact exec_cfg (hx.symm.trans h)
  · obtain rfl : s.complete .illegal = t := by simpa [hx] using h
    exact s.complete_cfg .illegal

theorem HostEffect.cfg_eq {s t : State} {op : HostOp} (h : HostEffect s op t) : t.cfg = s.cfg := by
  cases h <;> rfl

@[simp] theorem State.hostAccess_cfg (s : State) (op : HostOp) : (s.hostAccess op).cfg = s.cfg := by
  obtain ⟨p, t, he, hx⟩ := s.hostAccess_effect op
  rw [hx, State.respond_cfg, he.cfg_eq]

theorem step_cfg {s t : State} (h : step s = .next t) : t.cfg = s.cfg := by
  rw [← s.tick_cfg]
  rcases step_cases s with ⟨-, hx⟩ | ⟨op, -, hx⟩ | ⟨-, hx⟩
  · exact engineTurn_cfg (hx.symm.trans h)
  · obtain rfl : s.tick.hostAccess op = t := by simpa [hx] using h
    exact s.tick.hostAccess_cfg op
  · obtain rfl : s.tick.resetEvent = t := by simpa [hx] using h
    exact s.tick.resetEvent_cfg

/-- Settles O17: the engine's turn, a host access and reset each keep the parameters. -/
theorem stepKeepsTheParameters : Obligations.StepKeepsTheParameters := fun _ _ => step_cfg

end Sys2Proof.Machine
end

section
/-! The invariant through each part of a step: the commands' effects, the engine's turn, the host port and reset
(R46, and the storage facts of `State.Inv`). -/

namespace Sys2Proof.Machine

/-! ### The commands -/

theorem State.Inv.tick {s : State} (h : s.Inv) : s.tick.Inv := { h with }

theorem State.Inv.complete {s : State} (h : s.Inv) (e : ErrCode) : (s.complete e).Inv :=
  { h with errRange := e.code_le }

theorem State.Inv.putHalves {s : State} (h : s.Inv) (hv : Halves) : (s.putHalves hv).Inv := { h with }

/-- Zeroing every triple keeps their number (R210). -/
theorem State.Inv.clear {s : State} (h : s.Inv) : { s with ks := s.ks.map (fun _ => ⟨0, 0, 0⟩) }.Inv :=
  { h with ksSize := (List.length_map _).trans h.ksSize }

/-- New DBUF contents keep the invariant where every address they list is an old one or lies in a region inside
DBUF; L, R and RESULT are free (R63). -/
theorem State.Inv.withDbuf {s : State} (h : s.Inv) {d : Memory} (l r n : Word) {dst len : Nat} (hd : d.wf)
    (hmem : ∀ c ∈ d, (dst ≤ c.1 ∧ c.1 < dst + len) ∨ c ∈ s.dbuf) (hb : dst + len ≤ s.cfg.dbufBytes) :
    { s with dbuf := d, l := l, r := r, result := n }.Inv :=
  { h with
    dbufSorted := hd
    dbufBound := fun c hc => by
      rcases hmem c hc with hc | hc
      · exact Nat.lt_of_lt_of_le hc.2 hb
      · exact h.dbufBound c hc }

/-- `MemWrite` inside DBUF (R67). -/
theorem State.Inv.memWrite {s : State} (h : s.Inv) (a : Nat) (bs : List Byte)
    (hb : a + bs.length ≤ s.cfg.dbufBytes) : (s.memWrite a bs).Inv :=
  h.withDbuf s.l s.r s.result (Memory.writeBytes_wf h.dbufSorted a bs) (fun _ => Memory.mem_writeBytes) hb

theorem State.encRun_eq (s : State) :
    s.encRun = { s.encAfter s.arg0.toNat s.arg1.toNat s.arg2.toNat (paddedLen s.arg1.toNat / 8) with
      result := BitVec.ofNat 32 (paddedLen s.arg1.toNat) } := rfl

theorem State.decRun_eq (s : State) :
    s.decRun = { s.decAfter s.arg0.toNat s.arg2.toNat (wholeLen s.arg1.toNat / 8) with
      result := BitVec.ofNat 32 (wholeLen s.arg1.toNat) } := rfl

/-- The blocks ENC stores stay inside DBUF, since its destination was checked (R191). -/
theorem State.Inv.encRun {s : State} (h : s.Inv) (hc : s.encCheck = none) : s.encRun.Inv := by
  obtain ⟨-, -, hdst⟩ := s.encCheck_eq_none.mp hc
  have hblocks :=
    s.encAfter_dbuf s.arg0.toNat s.arg1.toNat s.arg2.toNat (paddedLen s.arg1.toNat / 8) h.dbufSorted
  obtain ⟨d, l, r, he⟩ := s.encAfter_frame s.arg0.toNat s.arg1.toNat s.arg2.toNat (paddedLen s.arg1.toNat / 8)
  rw [he] at hblocks
  rw [State.encRun_eq, he]
  exact h.withDbuf l r _ hblocks.1 hblocks.2 (by omega)

/-- The blocks DEC stores stay inside DBUF, since its destination was checked (R192). -/
theorem State.Inv.decRun {s : State} (h : s.Inv) (hc : s.decCheck = none) : s.decRun.Inv := by
  obtain ⟨-, -, -, hdst⟩ := s.decCheck_eq_none.mp hc
  have hblocks := s.decAfter_dbuf s.arg0.toNat s.arg2.toNat (wholeLen s.arg1.toNat / 8) h.dbufSorted
  obtain ⟨d, l, r, he⟩ := s.decAfter_frame s.arg0.toNat s.arg2.toNat (wholeLen s.arg1.toNat / 8)
  rw [he] at hblocks
  rw [State.decRun_eq, he]
  exact h.withDbuf l r _ hblocks.1 hblocks.2 (by omega)

/-- NEW writes triples and adds none, thin or multi-level (R146, R147). -/
theorem State.newSchedule_length (s : State) (sel : LevelSel) : (s.newSchedule sel).1.length = s.ks.length := by
  unfold State.newSchedule
  split
  · exact fill_length _ _ _
  · exact buildMulti_length _ _ _ _

/-- The sizes a level operand selects are related as R46 asks: a legal MAX_LEVEL keeps them below 2^32. -/
theorem State.construct_sizesAgree {s : State} (hp : s.cfg.legal = true) {sel : LevelSel}
    (hc : s.newCheck = .ok sel) : (s.construct sel).sizesAgree := by
  have hmax : s.cfg.maxLevel ≤ 65535 := by
    simp only [Params.legal, Bool.and_eq_true, decide_eq_true_eq] at hp
    exact hp.1.1.1
  obtain ⟨hlv, -, -⟩ := (s.newCheck_eq_ok sel).mp hc
  rw [State.construct_eq]
  rcases decodeLevel_eq_some hlv with ⟨-, rfl⟩ | ⟨lv, -, h1, hle, rfl⟩
  · exact .inl ⟨rfl, rfl, rfl⟩
  · refine .inr ?_
    simp only [BitVec.toNat_ofNat]
    omega

/-- A successful NEW establishes what R46 asks of a keyed state. -/
theorem State.Inv.construct {s : State} (h : s.Inv) {sel : LevelSel} (hc : s.newCheck = .ok sel) :
    (s.construct sel).Inv := by
  have hsp : (if s.spbv then s.sp else spTables) = spTables := by
    cases hv : s.spbv with
    | true => exact h.spBuilt hv
    | false => rfl
  have hsizes := State.construct_sizesAgree h.params hc
  rw [State.construct_eq, hsp] at hsizes ⊢
  exact { h with
    ksSize := (s.newSchedule_length sel).trans h.ksSize
    spSize := spTables_size
    spBuilt := fun _ => rfl
    keyed := fun _ => ⟨rfl, hsizes⟩
    unkeyed := nofun }

/-- Every command keeps the invariant, completed with or without an error. -/
theorem exec_inv {i : Instr} {s t : State} (h : s.Inv) (hx : exec i s = .next t) : t.Inv := by
  rcases exec_cases i s with ⟨e, -, he⟩ | ⟨u, he, hu⟩
  · obtain rfl := Host.Outcome.next.inj (he.symm.trans hx)
    exact h.complete e
  · obtain rfl := Host.Outcome.next.inj (he.symm.trans hx)
    refine State.Inv.complete ?_ .ok
    cases i with
    | nop => exact hu ▸ h
    | clear => exact hu ▸ h.clear
    | new =>
      obtain ⟨sel, hc, rfl⟩ := hu
      exact h.construct hc
    | enc => exact hu.2 ▸ h.encRun hu.1
    | dec => exact hu.2 ▸ h.decRun hu.1
    | encb => exact hu.2 ▸ h.putHalves _
    | decb => exact hu.2 ▸ h.putHalves _

theorem engineTurn_inv {s t : State} (h : s.Inv) (hx : engineTurn s = .next t) : t.Inv := by
  rcases engineTurn_cases s with ⟨-, he⟩ | ⟨-, i, -, he⟩ | ⟨-, -, he⟩
  · obtain rfl := Host.Outcome.next.inj (he.symm.trans hx)
    exact h
  · exact exec_inv h (he.symm.trans hx)
  · obtain rfl := Host.Outcome.next.inj (he.symm.trans hx)
    exact h.complete .illegal

/-! ### The host port -/

/-- A legal DBUF_BYTES is a multiple of 8, so an aligned word that starts inside DBUF ends inside it (R5, R65). -/
theorem State.Inv.dbufBytes_dvd {s : State} (h : s.Inv) : s.cfg.dbufBytes % 8 = 0 := by
  have hp := h.params
  simp only [Params.legal, Bool.and_eq_true, decide_eq_true_eq] at hp
  exact hp.1.1.2

theorem HostEffect.inv {s t : State} {op : HostOp} (he : HostEffect s op t) (h : s.Inv) : t.Inv := by
  cases he with
  | none => exact h
  | status | inten | overrun32 | overrun8 | issue | operand => exact { h with }
  | dbuf8 off v hi a ha => exact h.memWrite a [v] ha
  | dbuf32 off v hi a ha hd =>
    have := h.dbufBytes_dvd
    refine h.memWrite a _ ?_
    rw [bytesBE32_length]
    omega

theorem State.Inv.hostAccess {s : State} (h : s.Inv) (op : HostOp) : (s.hostAccess op).Inv := by
  obtain ⟨p, t, he, hx⟩ := s.hostAccess_effect op
  rw [hx]
  exact { he.inv h with }

/-! ### Reset -/

/-- A reset with legal parameters meets the invariant (R48, R46). -/
theorem State.resetWith_inv {c : Params} (hc : c.legal = true) (es : List Event) (n : Nat) :
    (State.resetWith c es n).Inv where
  params := hc
  dbufSorted := List.Pairwise.nil
  dbufBound _ hx := absurd hx List.not_mem_nil
  ksSize := List.length_replicate
  spSize := ⟨rfl, fun _ ht => List.eq_of_mem_replicate ht ▸ List.length_replicate⟩
  errRange := Nat.zero_le 6
  spBuilt := nofun
  keyed := nofun
  unkeyed _ := ⟨rfl, rfl, rfl⟩

/-- Settles O18: the parameters `State.reset` is built with are legal. -/
theorem resetMeetsTheInvariant : Obligations.ResetMeetsTheInvariant :=
  State.resetWith_inv (c := Config.params) (by decide) [] 0

/-- The output region of an abandoned ENC or DEC is inside DBUF, or empty (R191, R192, R262). -/
theorem State.pendingOutput_inside (s : State) :
    s.pendingOutput = (0, 0) ∨ s.pendingOutput.1 + s.pendingOutput.2 ≤ s.cfg.dbufBytes := by
  unfold State.pendingOutput
  split
  · split
    · rename_i hc
      exact .inr (s.encCheck_eq_none.mp (Option.isNone_iff_eq_none.mp hc)).2.2
    · exact .inl rfl
  · split
    · rename_i hc
      exact .inr (s.decCheck_eq_none.mp (Option.isNone_iff_eq_none.mp hc)).2.2.2
    · exact .inl rfl
  · exact .inl rfl

/-- The bytes a reset leaves listed are those of the abandoned output region (R262). -/
theorem State.resetDbuf_bound (s : State) : ∀ c ∈ s.resetDbuf, c.1 < s.cfg.dbufBytes := by
  intro c hc
  unfold State.resetDbuf at hc
  split at hc
  · have hc : s.pendingOutput.1 ≤ c.1 ∧ c.1 < s.pendingOutput.1 + s.pendingOutput.2 := by
      simpa using Memory.mem_writeBytes hc
    rcases s.pendingOutput_inside with hp | hp
    · simp [hp] at hc
    · omega
  · exact absurd hc List.not_mem_nil

theorem State.Inv.resetEvent {s : State} (h : s.Inv) : s.resetEvent.Inv :=
  { State.resetWith_inv h.params s.events s.draws with
    dbufSorted := s.resetDbuf_wf
    dbufBound := s.resetDbuf_bound }

/-- Settles O19: the engine's turn, a host access and reset each keep the invariant. -/
theorem stepKeepsTheInvariant : Obligations.StepKeepsTheInvariant := by
  intro s t h hx
  rcases step_cases s with ⟨-, he⟩ | ⟨op, -, he⟩ | ⟨-, he⟩
  · exact engineTurn_inv h.tick (he.symm.trans hx)
  · obtain rfl := Host.Outcome.next.inj (he.symm.trans hx)
    exact h.tick.hostAccess op
  · obtain rfl := Host.Outcome.next.inj (he.symm.trans hx)
    exact h.tick.resetEvent

end Sys2Proof.Machine
end

section
/-! What a command and a step can do to the fields, said once, and the frames that follow (R22, R50, R84, R232). -/

namespace Sys2Proof.Machine

open Sys2Proof.Stated

/-! ### Commands -/

/-- The fields a command can write beside its completion, whatever it writes there (R50). -/
inductive CommandEffect (s : State) : Instr → State → Prop where
  /-- NOP, and every command that fails. -/
  | none (i : Instr) : CommandEffect s i s
  | clear (ks : List Subkey) : CommandEffect s .clear { s with ks := ks }
  | new (sp : List (List Word)) (ks : List Subkey) (kbw : KBW) (level rounds keysize : Word) :
      CommandEffect s .new { s with
        sp := sp, spbv := true, ks := ks, kbw := kbw
        level := level, rounds := rounds, keysize := keysize, keyv := true }
  | enc (d : Memory) (l r n : Word) : CommandEffect s .enc { s with dbuf := d, l := l, r := r, result := n }
  | dec (d : Memory) (l r n : Word) : CommandEffect s .dec { s with dbuf := d, l := l, r := r, result := n }
  | encb (h : Halves) : CommandEffect s .encb (s.putHalves h)
  | decb (h : Halves) : CommandEffect s .decb (s.putHalves h)

/-- Every command is an effect and then a completion (R230). -/
theorem exec_effect {i : Instr} {s t : State} (h : exec i s = .next t) :
    ∃ e u, CommandEffect s i u ∧ t = u.complete e := by
  rcases exec_cases i s with ⟨e, -, he⟩ | ⟨u, he, hu⟩
  · exact ⟨e, s, .none i, Host.Outcome.next.inj (h.symm.trans he)⟩
  · refine ⟨.ok, u, ?_, Host.Outcome.next.inj (h.symm.trans he)⟩
    cases i with
    | nop => exact hu ▸ .none .nop
    | clear => exact hu ▸ .clear _
    | new =>
      obtain ⟨sel, -, rfl⟩ := hu
      rw [State.construct_eq]
      exact .new _ _ _ _ _ _
    | enc =>
      obtain ⟨d, l, r, hr⟩ := s.encRun_frame
      rw [hu.2, hr]
      exact .enc d l r _
    | dec =>
      obtain ⟨d, l, r, hr⟩ := s.decRun_frame
      rw [hu.2, hr]
      exact .dec d l r _
    | encb => exact hu.2 ▸ .encb _
    | decb => exact hu.2 ▸ .decb _

/-- Settles O9: none of the seven effects, and no completion, writes one of these fields. -/
theorem noCommandWritesOperandsOrInten : Obligations.NoCommandWritesOperandsOrInten := by
  intro i s t h
  obtain ⟨e, u, hu, rfl⟩ := exec_effect h
  cases hu <;> exact ⟨rfl, rfl, rfl, rfl, rfl, rfl, rfl, rfl, rfl, rfl⟩

/-- Settles O10: each effect writes the fields of its own command alone. -/
theorem onlyTheNamedCommandsWrite : Obligations.OnlyTheNamedCommandsWrite := by
  intro i s t h
  obtain ⟨e, u, hu, rfl⟩ := exec_effect h
  cases hu <;> simp [State.dbufByte]

/-- With KEYV = 0 the checks of ENC end at the first one (R235). -/
theorem State.encCheck_of_unkeyed {s : State} (h : s.keyv = false) : s.encCheck = some .noKey :=
  if_pos (by simp [h])

/-- With KEYV = 0 the checks of DEC end at the first one (R235). -/
theorem State.decCheck_of_unkeyed {s : State} (h : s.keyv = false) : s.decCheck = some .noKey :=
  if_pos (by simp [h])

/-- Settles O40: KEYV is the first check of each of the four commands. -/
theorem blockCommandsNeedAnInstance : Obligations.BlockCommandsNeedAnInstance := by
  intro s i hk hi
  change exec i s = .next (s.complete .noKey)
  rcases hi with rfl | rfl | rfl | rfl
  · simp [exec, execEnc, State.encCheck_of_unkeyed hk]
  · simp [exec, execDec, State.decCheck_of_unkeyed hk]
  · simp [exec, execEncb, hk]
  · simp [exec, execDecb, hk]

/-! ### Steps -/

theorem step_of_engineNext {s : State} (h : engineNext s) : step s = engineTurn s.tick := by
  rcases step_cases s with ⟨-, he⟩ | ⟨op, hd, -⟩ | ⟨hd, -⟩
  · exact he
  · rcases h with h | h <;> simp [h] at hd
  · rcases h with h | h <;> simp [h] at hd

theorem step_of_host {s : State} {op : HostOp} (h : s.events.head? = some (.host op)) :
    step s = .next (s.tick.hostAccess op) := by
  rcases step_cases s with ⟨hd | hd, -⟩ | ⟨op', hd, he⟩ | ⟨hd, -⟩
  · simp [hd] at h
  · simp [hd] at h
  · obtain rfl : op' = op := by simpa [hd] using h
    exact he
  · simp [hd] at h

theorem step_of_reset {s : State} (h : s.events.head? = some .reset) : step s = .next s.tick.resetEvent := by
  rcases step_cases s with ⟨hd | hd, -⟩ | ⟨op, hd, -⟩ | ⟨-, he⟩
  · simp [hd] at h
  · simp [hd] at h
  · simp [hd] at h
  · exact he

theorem engineTurn_of_idle {s : State} (h : s.cstate = .idle) : engineTurn s = .next s := by
  simp [engineTurn, h]

theorem engineTurn_of_decode {s : State} {i : Instr} (h : s.cstate = .busy) (hd : decode s.pend = some i) :
    engineTurn s = exec i s := by
  simp [engineTurn, h, hd]

/-- Settles O5: `tick` leaves CSTATE and PEND, so the engine's turn runs the command PEND held. -/
theorem stepRunsTheDecodedCommand : Obligations.StepRunsTheDecodedCommand := by
  intro s i _ hb hn hd
  rw [step_of_engineNext hn]
  exact engineTurn_of_decode hb hd

/-- Settles O6: the two events of a schedule that are no command and no reset. -/
theorem stepTakesTheNextEvent : Obligations.StepTakesTheNextEvent := by
  refine ⟨fun s op h => step_of_host h, fun s hi hn => ?_⟩
  rw [step_of_engineNext hn]
  exact engineTurn_of_idle hi

/-- What one step can do: the cases of `step_cases`, with what the engine's turn and the host port do in turn. -/
inductive StepEffect (s : State) : State → Prop where
  /-- A turn of the idle engine. -/
  | idle : StepEffect s s.tick
  /-- A turn of the busy engine. -/
  | command (i : Instr) (e : ErrCode) (u : State) (he : CommandEffect s.tick i u) : StepEffect s (u.complete e)
  /-- A turn of the busy engine on a reserved word. -/
  | reserved : StepEffect s (s.tick.complete .illegal)
  | host (op : HostOp) (p : Response) (u : State) (hd : s.events.head? = some (.host op))
      (he : HostEffect s.tick op u) : StepEffect s (u.respond p)
  | reset (hd : s.events.head? = some .reset) : StepEffect s s.tick.resetEvent

theorem engineTurn_effect {s t : State} (h : engineTurn s.tick = .next t) : StepEffect s t := by
  rcases engineTurn_cases s.tick with ⟨-, he⟩ | ⟨-, i, -, he⟩ | ⟨-, -, he⟩
  · obtain rfl := Host.Outcome.next.inj (he.symm.trans h)
    exact .idle
  · obtain ⟨e, u, hu, rfl⟩ := exec_effect (he.symm.trans h)
    exact .command i e u hu
  · obtain rfl := Host.Outcome.next.inj (he.symm.trans h)
    exact .reserved

theorem step_effect {s t : State} (h : step s = .next t) : StepEffect s t := by
  rcases step_cases s with ⟨-, he⟩ | ⟨op, hd, he⟩ | ⟨hd, he⟩
  · exact engineTurn_effect (he.symm.trans h)
  · obtain rfl := Host.Outcome.next.inj (he.symm.trans h)
    obtain ⟨p, u, hu, hx⟩ := s.tick.hostAccess_effect op
    rw [hx]
    exact .host op p u hd hu
  · obtain rfl := Host.Outcome.next.inj (he.symm.trans h)
    exact .reset hd

/-! ### The flags -/

/-- NEW sets both valid flags and no other command writes them (R27, R28). -/
theorem CommandEffect.keeps_valid {s u : State} {i : Instr} (he : CommandEffect s i u) :
    (s.spbv = true → u.spbv = true) ∧ (s.keyv = true → u.keyv = true) := by
  cases he with
  | new => exact ⟨fun _ => rfl, fun _ => rfl⟩
  | none | clear | enc | dec | encb | decb => exact ⟨id, id⟩

theorem CommandEffect.ovr_eq {s u : State} {i : Instr} (he : CommandEffect s i u) : u.ovr = s.ovr := by
  cases he <;> rfl

theorem CommandEffect.doneie_eq {s u : State} {i : Instr} (he : CommandEffect s i u) : u.doneie = s.doneie := by
  cases he <;> rfl

theorem HostEffect.valid_eq {s t : State} {op : HostOp} (he : HostEffect s op t) :
    t.spbv = s.spbv ∧ t.keyv = s.keyv := by
  cases he <;> exact ⟨rfl, rfl⟩

/-- A host access changes DONE by a write to STATUS alone (R29). -/
theorem HostEffect.done_eq {s t : State} {op : HostOp} (he : HostEffect s op t) :
    t.done = s.done ∨ ∃ v, op = .wr32 0x004 v ∧ t.done = (s.done && !v.getLsbD 3) := by
  cases he with
  | status v => exact .inr ⟨v, rfl, rfl⟩
  | none | inten | overrun32 | overrun8 | issue | operand | dbuf8 | dbuf32 => exact .inl rfl

/-- A host access changes OVR by a write to STATUS, or by a write that is dropped (R30). -/
theorem HostEffect.ovr_eq {s t : State} {op : HostOp} (he : HostEffect s op t) :
    t.ovr = s.ovr ∨ (∃ v, op = .wr32 0x004 v ∧ t.ovr = (s.ovr && !v.getLsbD 4)) ∨
      (s.cstate = .busy ∧ isRead op = false ∧ t.ovr = true) := by
  cases he with
  | status v => exact .inr (.inl ⟨v, rfl, rfl⟩)
  | overrun32 off v hb | overrun8 off v hb => exact .inr (.inr ⟨hb, rfl, rfl⟩)
  | none | inten | issue | operand | dbuf8 | dbuf32 => exact .inl rfl

/-- Settles O14: the host writes neither flag, and a command only sets them. -/
theorem validFlagsClearOnlyByReset : Obligations.ValidFlagsClearOnlyByReset := by
  intro s t h hnr
  cases step_effect h with
  | idle | reserved => exact ⟨id, id⟩
  | command i e u he => exact he.keeps_valid
  | host op p u hd he =>
    obtain ⟨hs, hk⟩ := he.valid_eq
    exact ⟨hs.trans, hk.trans⟩
  | reset hd => exact absurd hd hnr

/-- Settles O15: a completion sets DONE, so the engine never clears it. -/
theorem doneClearsOnlyByWriteOrReset : Obligations.DoneClearsOnlyByWriteOrReset := by
  intro s t h h1 h0
  cases step_effect h with
  | idle => exact Bool.noConfusion (h1.symm.trans h0)
  | command | reserved => exact Bool.noConfusion h0
  | host op p u hd he =>
    rcases he.done_eq with hx | ⟨v, rfl, hx⟩
    · exact Bool.noConfusion ((hx.trans h1).symm.trans h0)
    · exact .inr ⟨v, hd, by simpa [h1] using hx.symm.trans h0⟩
  | reset hd => exact .inl hd

/-- Settles O16: OVR is out of the commands' reach, so a change of it is a host access or a reset. -/
theorem overrunSetAndClearedOnlyByTheHost : Obligations.OverrunSetAndClearedOnlyByTheHost := by
  constructor
  · intro s t h h0 h1
    cases step_effect h with
    | idle | reserved => exact Bool.noConfusion (h0.symm.trans h1)
    | command i e u he => exact Bool.noConfusion ((he.ovr_eq.trans h0).symm.trans h1)
    | host op p u hd he =>
      rcases he.ovr_eq with hx | ⟨v, -, hx⟩ | ⟨hb, hw, -⟩
      · exact Bool.noConfusion ((hx.trans h0).symm.trans h1)
      · simpa [h0] using hx.symm.trans h1
      · exact ⟨hb, op, hd, hw⟩
    | reset hd => exact Bool.noConfusion h1
  · intro s t h h1 h0
    cases step_effect h with
    | idle | reserved => exact Bool.noConfusion (h1.symm.trans h0)
    | command i e u he => exact Bool.noConfusion ((he.ovr_eq.trans h1).symm.trans h0)
    | host op p u hd he =>
      rcases he.ovr_eq with hx | ⟨v, rfl, hx⟩ | ⟨-, -, hx⟩
      · exact Bool.noConfusion ((hx.trans h1).symm.trans h0)
      · exact .inr ⟨v, hd, by simpa [h1] using hx.symm.trans h0⟩
      · exact Bool.noConfusion (hx.symm.trans h0)
    | reset hd => exact .inl hd

/-! ### Reset -/

/-- INTEN is DONEIE as a word (R32). -/
theorem State.intenWord_eq (s : State) : s.intenWord = if s.doneie then 1 else 0 := by
  unfold State.intenWord
  cases s.doneie <;> rfl

/-- Settles O59: the step is `resetEvent`, whatever the state was. -/
theorem resetGivesTheTableOfValues : Obligations.ResetGivesTheTableOfValues := by
  intro s h
  exact ⟨_, step_of_reset h, rfl, rfl, rfl, rfl, rfl, rfl, State.intenWord_eq _,
    rfl, rfl, rfl, rfl, rfl, rfl, rfl, rfl, rfl, rfl, rfl⟩

end Sys2Proof.Machine
end

section
/-! The register window: the words a register reads as, what a register write does, and that the internal storage is
in no address space (R23 to R49, R83, R84). -/

namespace Sys2Proof.Machine

/-! ### Register accesses -/

/-- A legal 32-bit register read (R64, R83). -/
theorem State.hostAccess_rd32 (s : State) {off : Offset} (h : off.toNat < 0x40 ∧ off.toNat % 4 = 0) :
    s.hostAccess (.rd32 off) = s.respond (.data32 (s.readReg (regAt (off.toNat / 4)))) := by
  simp [State.hostAccess, State.read32, placeOf, h]

/-- A legal 32-bit register write (R64, R83). -/
theorem State.hostAccess_wr32 (s : State) {off : Offset} (h : off.toNat < 0x40 ∧ off.toNat % 4 = 0) (v : Word) :
    s.hostAccess (.wr32 off v) = (s.writeReg (regAt (off.toNat / 4)) v).respond .ack := by
  simp [State.hostAccess, State.write32, placeOf, h]

theorem State.busy_of_idle {s : State} (h : s.cstate = .idle) : s.busy = false := by simp [State.busy, h]

theorem State.unlessBusy_of_idle {s : State} (h : s.cstate = .idle) (t : State) : s.unlessBusy t = t := by
  simp [State.unlessBusy, State.busy_of_idle h]

theorem State.unlessBusy_of_busy {s : State} (h : s.cstate = .busy) (t : State) : s.unlessBusy t = s.overrun :=
  if_pos (s.busy_iff.mpr h)

/-- A register answers its value while idle, and at any time where the spec leaves nothing open (R83). -/
theorem State.port_rd32 (s : State) {off : Offset} (h : off.toNat < 0x40 ∧ off.toNat % 4 = 0)
    (ho : s.busy = false ∨ (regAt (off.toNat / 4)).openWhileBusy = false) :
    (s.hostAccess (.rd32 off)).port = .data32 (s.regValue (regAt (off.toNat / 4))) := by
  rw [s.hostAccess_rd32 h]
  rcases ho with ho | ho <;> simp [State.readReg, ho]

/-- While idle a register write is performed (R83). -/
theorem State.hostAccess_wr32_of_idle {s : State} (hi : s.cstate = .idle) {off : Offset} {v : Word} {t : State}
    (h : off.toNat < 0x40 ∧ off.toNat % 4 = 0) (ht : s.writeReg (regAt (off.toNat / 4)) v = s.unlessBusy t) :
    s.hostAccess (.wr32 off v) = t.respond .ack := by
  rw [s.hostAccess_wr32 h, ht, State.unlessBusy_of_idle hi]

/-- Settles O49: a CMD write is `issue` under `unlessBusy`. -/
theorem commandWriteIssuesOrOverruns : Obligations.CommandWriteIssuesOrOverruns := by
  refine fun s v => ⟨fun hi => State.hostAccess_wr32_of_idle hi (t := s.issue v) (by decide) rfl, fun hb => ?_⟩
  have hw : s.writeReg .cmd v = s.overrun := State.unlessBusy_of_busy hb _
  exact (s.hostAccess_wr32 (by decide) v).trans (congrArg (State.respond · .ack) hw)

/-- The write-1-to-clear of STATUS, bit by bit (R25). -/
theorem State.writeStatus_eq (s : State) (v : Word) :
    s.writeStatus v = { s with
      done := if v.getLsbD 3 then false else s.done
      ovr := if v.getLsbD 4 then false else s.ovr } := by
  unfold State.writeStatus
  cases v.getLsbD 3 <;> cases v.getLsbD 4 <;> simp

/-- Settles O50: neither write looks at BUSY. -/
theorem statusAndIntenWrites : Obligations.StatusAndIntenWrites := by
  refine fun s v => ⟨?_, s.hostAccess_wr32 (by decide) v⟩
  exact (s.hostAccess_wr32 (by decide) v).trans (congrArg (State.respond · .ack) (s.writeStatus_eq v))

/-- Settles O51: an operand write is performed while idle, and a read-only register takes no write. -/
theorem operandAndReadOnlyWrites : Obligations.OperandAndReadOnlyWrites := by
  refine ⟨fun s v hi => ?_, fun s v off hoff => ?_⟩
  · exact ⟨State.hostAccess_wr32_of_idle hi (t := { s with arg0 := v }) (by decide) rfl,
      State.hostAccess_wr32_of_idle hi (t := { s with arg1 := v }) (by decide) rfl,
      State.hostAccess_wr32_of_idle hi (t := { s with arg2 := v }) (by decide) rfl,
      State.hostAccess_wr32_of_idle hi (t := { s with data0 := v }) (by decide) rfl,
      State.hostAccess_wr32_of_idle hi (t := { s with data1 := v }) (by decide) rfl⟩
  · simp only [List.mem_cons, List.not_mem_nil, or_false] at hoff
    rcases hoff with rfl | rfl | rfl | rfl | rfl | rfl | rfl | rfl <;> exact s.hostAccess_wr32 (by decide) v

/-- Settles O53: a legal read answers `regValue`, while BUSY too for the seven registers no command changes. -/
theorem registerReads : Obligations.RegisterReads := by
  refine ⟨fun s => ?_, fun s hi => ?_⟩
  · rw [← s.intenWord_eq]
    refine ⟨?_, ?_, ?_, ?_, ?_, ?_, ?_⟩ <;> exact s.port_rd32 (by decide) (.inr rfl)
  · have hb := State.busy_of_idle hi
    refine ⟨?_, ?_, ?_, ?_, ?_, ?_, ?_, ?_, ?_⟩ <;> exact s.port_rd32 (by decide) (.inl hb)

/-- STATUS bit by bit (R25, R49). -/
theorem State.getLsbD_statusWord (s : State) {i : Nat} (hi : i < 32) :
    s.statusWord.getLsbD i =
      if i = 0 then s.busy else if i = 1 then s.spbv else if i = 2 then s.keyv
      else if i = 3 then s.done else if i = 4 then s.ovr else (decide (8 ≤ i) && s.err.getLsbD (i - 8)) := by
  simp only [State.statusWord, BitVec.getLsbD_append]
  interval_cases i <;> simp

/-- Settles O48: the five flags are one bit each; ERR is the eight bits above the reserved ones. -/
theorem statusWordLayout : Obligations.StatusWordLayout := by
  intro s
  refine ⟨s.getLsbD_statusWord (by decide), s.getLsbD_statusWord (by decide), s.getLsbD_statusWord (by decide),
    s.getLsbD_statusWord (by decide), s.getLsbD_statusWord (by decide), ?_, ?_, ?_⟩
  all_goals
    refine BitVec.eq_of_getLsbD_eq fun i hi => ?_
    rw [BitVec.getLsbD_extractLsb', s.getLsbD_statusWord (by omega)]
    interval_cases i <;> simp

/-- Settles O58: a completion sets DONE and no command writes DONEIE; a STATUS write with bit 3 set clears DONE. -/
theorem completionRaisesTheInterrupt : Obligations.CompletionRaisesTheInterrupt := by
  refine ⟨fun s => rfl, fun i s t h => ?_, fun s v hv => ?_⟩
  · obtain ⟨e, u, hu, rfl⟩ := exec_effect h
    simp [State.irq, hu.doneie_eq]
  · rw [(statusAndIntenWrites s v).1]
    simp [State.irq, hv]

/-! ### The internal storage -/

/-- The state with other contents of the storage that is in no address space: KS, SP, KBW, L and R (R43, R44, R84). -/
def State.withStorage (s : State) (ks : List Subkey) (sp : List (List Word)) (kbw : KBW) (l r : Word) : State :=
  { s with ks := ks, sp := sp, kbw := kbw, l := l, r := r }

section Storage

variable (s : State) (ks : List Subkey) (sp : List (List Word)) (kbw : KBW) (l r : Word)

@[simp] theorem State.withStorage_cfg : (s.withStorage ks sp kbw l r).cfg = s.cfg := rfl

@[simp] theorem State.withStorage_busy : (s.withStorage ks sp kbw l r).busy = s.busy := rfl

theorem State.withStorage_unlessBusy {t t' : State} (ht : t' = t.withStorage ks sp kbw l r) :
    (s.withStorage ks sp kbw l r).unlessBusy t' = (s.unlessBusy t).withStorage ks sp kbw l r := by
  unfold State.unlessBusy
  rw [ht, State.withStorage_busy]
  split <;> rfl

theorem State.withStorage_writeReg (g : Reg) (v : Word) :
    (s.withStorage ks sp kbw l r).writeReg g v = (s.writeReg g v).withStorage ks sp kbw l r := by
  cases g with
  | id | status | inten | result | level | rounds | keysize | blksize | caps0 | caps1 => rfl
  | cmd | arg0 | arg1 | arg2 | data0 | data1 => exact s.withStorage_unlessBusy ks sp kbw l r rfl

theorem State.withStorage_readReg (g : Reg) : (s.withStorage ks sp kbw l r).readReg g = s.readReg g := by
  cases g <;> rfl

theorem State.withStorage_writeDbuf (a : Nat) (bs : List Byte) :
    (s.withStorage ks sp kbw l r).unlessBusy ((s.withStorage ks sp kbw l r).memWrite a bs) =
      (s.unlessBusy (s.memWrite a bs)).withStorage ks sp kbw l r :=
  s.withStorage_unlessBusy ks sp kbw l r rfl

/-- A host access commutes with any change of the internal storage (R84). -/
theorem State.withStorage_hostAccess (op : HostOp) :
    (s.withStorage ks sp kbw l r).hostAccess op = (s.hostAccess op).withStorage ks sp kbw l r := by
  cases op with
  | rd16 | wr16 => rfl
  | rd8 off =>
    simp only [State.hostAccess, State.read8, State.withStorage_cfg]
    cases placeOf s.cfg off <;> rfl
  | wr8 off v =>
    simp only [State.hostAccess, State.write8, State.withStorage_cfg, State.withStorage_writeDbuf]
    cases placeOf s.cfg off <;> rfl
  | rd32 off =>
    simp only [State.hostAccess, State.read32, State.withStorage_cfg, State.withStorage_readReg]
    cases placeOf s.cfg off with
    | reg | dbuf => dsimp only; split_ifs <;> rfl
    | unmapped => rfl
  | wr32 off v =>
    simp only [State.hostAccess, State.write32, State.withStorage_cfg, State.withStorage_writeReg,
      State.withStorage_writeDbuf]
    cases placeOf s.cfg off with
    | reg | dbuf => dsimp only; split_ifs <;> rfl
    | unmapped => rfl

end Storage

/-- Settles O57: an access commutes with a change of the storage; the change to its own contents shows that it leaves
them as they are. -/
theorem internalStorageIsOutOfReach : Obligations.InternalStorageIsOutOfReach := by
  intro s op ks sp kbw l r
  have hself : s.hostAccess op = (s.hostAccess op).withStorage s.ks s.sp s.kbw s.l s.r :=
    s.withStorage_hostAccess s.ks s.sp s.kbw s.l s.r op
  have hother := s.withStorage_hostAccess ks sp kbw l r op
  exact ⟨(congrArg State.ks hself :), (congrArg State.sp hself :), (congrArg State.kbw hself :),
    (congrArg State.l hself :), (congrArg State.r hself :), (congrArg State.port hother :)⟩

end Sys2Proof.Machine
end

section
/-! DBUF through the host port, the accesses the window does not admit, and reads (R61, R64, R65, R69, R74, R83). -/

namespace Sys2Proof.Machine

open Sys2Proof.Stated

/-! ### DBUF accesses -/

@[simp] theorem State.respond_dbufByte (s : State) (p : Response) (x : Nat) :
    (s.respond p).dbufByte x = s.dbufByte x := rfl

section Dbuf

variable {s : State} {off : Offset} {a : Nat} (ho : off.toNat = 0x8000 + a) (ha : a < s.cfg.dbufBytes)
include ho ha

theorem State.hostAccess_rd8_dbuf : s.hostAccess (.rd8 off) = s.respond (.data8 (s.readDbuf8 a)) := by
  simp only [State.hostAccess, State.read8, placeOf_of_dbuf ho ha]

theorem State.hostAccess_wr8_dbuf (v : Byte) :
    s.hostAccess (.wr8 off v) = (s.unlessBusy (s.memWrite a [v])).respond .ack := by
  simp only [State.hostAccess, State.write8, placeOf_of_dbuf ho ha]

theorem State.hostAccess_rd32_dbuf (h4 : a % 4 = 0) :
    s.hostAccess (.rd32 off) = s.respond (.data32 (s.readDbuf32 a)) := by
  simp only [State.hostAccess, State.read32, placeOf_of_dbuf ho ha, if_pos h4]

theorem State.hostAccess_wr32_dbuf (h4 : a % 4 = 0) (v : Word) :
    s.hostAccess (.wr32 off v) = (s.unlessBusy (s.memWrite a (bytesBE32 v))).respond .ack := by
  simp only [State.hostAccess, State.write32, placeOf_of_dbuf ho ha, if_pos h4]

end Dbuf

/-- What DBUF reads as after one byte is written (R67). -/
theorem State.dbufByte_memWrite_byte (s : State) (a : Nat) (v : Byte) (x : Nat) :
    (s.memWrite a [v]).dbufByte x = if x = a then v else s.dbufByte x := by
  rw [State.dbufByte_memWrite, List.length_singleton]
  by_cases hx : x = a
  · subst hx
    simp [byteAt]
  · rw [if_neg (by omega), if_neg hx]

/-- What DBUF reads as after a word is written, most significant byte first (R65, R67). -/
theorem State.dbufByte_memWrite_word (s : State) (a : Nat) (v : Word) (x : Nat) :
    (s.memWrite a (bytesBE32 v)).dbufByte x =
      if x = a then v.extractLsb' 24 8
      else if x = a + 1 then v.extractLsb' 16 8
      else if x = a + 2 then v.extractLsb' 8 8
      else if x = a + 3 then v.extractLsb' 0 8
      else s.dbufByte x := by
  rw [State.dbufByte_memWrite, bytesBE32_length]
  by_cases hx : a ≤ x ∧ x < a + 4
  · obtain ⟨j, rfl⟩ := Nat.exists_eq_add_of_le hx.1
    have hj : j < 4 := by omega
    rw [if_pos hx]
    interval_cases j <;> simp [byteAt, bytesBE32]
  · rw [if_neg hx, if_neg (by omega), if_neg (by omega), if_neg (by omega), if_neg (by omega)]

/-- Settles O56: while idle an admitted access to DBUF is `readDbuf8`, `readDbuf32` or `memWrite`. -/
theorem dbufAccessesAreBigEndian : Obligations.DbufAccessesAreBigEndian := by
  intro s off a hi ho ha
  have hb := State.busy_of_idle hi
  refine ⟨?_, fun v => ?_, fun h4 => ⟨?_, fun v => ?_⟩⟩
  · rw [State.hostAccess_rd8_dbuf ho ha]
    simp [State.readDbuf8, hb]
  · rw [State.hostAccess_wr8_dbuf ho ha, State.unlessBusy_of_idle hi]
    exact ⟨s.dbuf.writeBytes a [v], rfl, s.dbufByte_memWrite_byte a v⟩
  · rw [State.hostAccess_rd32_dbuf ho ha h4]
    simp [State.readDbuf32, hb]
  · rw [State.hostAccess_wr32_dbuf ho ha h4, State.unlessBusy_of_idle hi]
    exact ⟨s.dbuf.writeBytes a (bytesBE32 v), rfl, s.dbufByte_memWrite_word a v⟩

/-- While BUSY a register write that `unlessBusy` guards is dropped (R83). -/
theorem State.hostAccess_wr32_of_busy {s : State} (hb : s.cstate = .busy) {off : Offset} {v : Word} {t : State}
    (h : off.toNat < 0x40 ∧ off.toNat % 4 = 0) (ht : s.writeReg (regAt (off.toNat / 4)) v = s.unlessBusy t) :
    s.hostAccess (.wr32 off v) = s.overrun.respond .ack := by
  rw [s.hostAccess_wr32 h, ht, State.unlessBusy_of_busy hb]

/-- Settles O52: each of these writes stands under `unlessBusy`, which while BUSY is `overrun`. -/
theorem writesWhileBusyAreDropped : Obligations.WritesWhileBusyAreDropped := by
  refine fun s off hb => ⟨fun hoff v => ?_, fun hlo hhi => ?_⟩
  · simp only [List.mem_cons, List.not_mem_nil, or_false] at hoff
    rcases hoff with rfl | rfl | rfl | rfl | rfl | rfl <;>
      exact State.hostAccess_wr32_of_busy hb (by decide) rfl
  · obtain ⟨a, ho⟩ := Nat.exists_eq_add_of_le hlo
    have ha : a < s.cfg.dbufBytes := by omega
    refine ⟨fun b => ?_, fun h4 v => ?_⟩
    · rw [State.hostAccess_wr8_dbuf ho ha, State.unlessBusy_of_busy hb]
      rfl
    · rw [State.hostAccess_wr32_dbuf ho ha (by omega), State.unlessBusy_of_busy hb]
      rfl

/-! ### Reads and bus errors -/

/-- No effect but the empty one belongs to a read (R74). -/
theorem HostEffect.eq_of_isRead {s t : State} {op : HostOp} (he : HostEffect s op t) (hr : isRead op = true) :
    t = s := by
  cases he with
  | none => rfl
  | status | inten | overrun32 | overrun8 | issue | operand | dbuf8 | dbuf32 => exact Bool.noConfusion hr

/-- Settles O54: a host access is an effect and an answer, and the effect of a read is none. -/
theorem hostReadsHaveNoSideEffect : Obligations.HostReadsHaveNoSideEffect := by
  intro s op hr
  obtain ⟨p, t, he, hx⟩ := s.hostAccess_effect op
  rw [he.eq_of_isRead hr] at hx
  exact ⟨p, hx⟩

/-- Where an 8-bit access is a bus error, the offset is no DBUF byte's (R65). -/
theorem placeOf_ne_dbuf {c : Params} {off : Offset}
    (h : ¬ (0x8000 ≤ off.toNat ∧ off.toNat < 0x8000 + c.dbufBytes)) (a : Nat) : placeOf c off ≠ .dbuf a := by
  intro hp
  obtain ⟨ho, ha⟩ := placeOf_dbuf hp
  omega

/-- Where a 32-bit access is a bus error, the offset is not aligned in the register space, nor in DBUF (R64, R65). -/
theorem placeOf_misaligned {c : Params} {off : Offset}
    (h : ¬ ((off.toNat < 0x40 ∨ (0x8000 ≤ off.toNat ∧ off.toNat < 0x8000 + c.dbufBytes)) ∧ off.toNat % 4 = 0))
    {k : Nat} (hp : placeOf c off = .reg k ∨ placeOf c off = .dbuf k) : k % 4 ≠ 0 := by
  rcases hp with hp | hp
  · obtain ⟨ho, hk⟩ := placeOf_reg hp
    omega
  · obtain ⟨ho, hk⟩ := placeOf_dbuf hp
    omega

/-- An access the window does not admit is a bus error (R69). -/
theorem State.hostAccess_of_illegal {s : State} {op : HostOp} (h : illegalAccess s.cfg op) :
    s.hostAccess op = if isRead op then s.readFault else s.writeFault := by
  cases op with
  | rd16 | wr16 => rfl
  | rd8 off =>
    simp only [State.hostAccess, State.read8, isRead, if_true]
    cases hp : placeOf s.cfg off with
    | dbuf a => exact absurd hp (placeOf_ne_dbuf h a)
    | reg | unmapped => rfl
  | wr8 off v =>
    simp only [State.hostAccess, State.write8, isRead, Bool.false_eq_true, if_false]
    cases hp : placeOf s.cfg off with
    | dbuf a => exact absurd hp (placeOf_ne_dbuf h a)
    | reg | unmapped => rfl
  | rd32 off =>
    simp only [State.hostAccess, State.read32, isRead, if_true]
    cases hp : placeOf s.cfg off with
    | reg k => exact if_neg (placeOf_misaligned h (.inl hp))
    | dbuf a => exact if_neg (placeOf_misaligned h (.inr hp))
    | unmapped => rfl
  | wr32 off v =>
    simp only [State.hostAccess, State.write32, isRead, Bool.false_eq_true, if_false]
    cases hp : placeOf s.cfg off with
    | reg k => exact if_neg (placeOf_misaligned h (.inl hp))
    | dbuf a => exact if_neg (placeOf_misaligned h (.inr hp))
    | unmapped => rfl

/-- Settles O55: the two bus errors change the port alone. -/
theorem busErrorsChangeNothing : Obligations.BusErrorsChangeNothing := by
  intro s op h
  have hx := State.hostAccess_of_illegal h
  refine ⟨fun hr => ⟨Config.freeWord s.draws, ?_⟩, fun hr => ?_⟩
  · rw [hx, hr]
    rfl
  · rw [hx, hr]
    rfl

end Sys2Proof.Machine
end

section
/-! Decoder and encoder against the opcode map, and the execute step of a reserved word (R90 to R92, R96, R99, R234). -/

namespace Sys2Proof

/-- Every command has an operation code of R92's map in bits 7:0 of its word, under RSVD = 0 (R91, R92). -/
theorem opcodeInRange (i : Instr) : Laws.OpcodeInRange.Statement i := by
  cases i with
  | nop => exact Laws.OpcodeInRange.nop
  | new => exact Laws.OpcodeInRange.new
  | enc => exact Laws.OpcodeInRange.enc
  | dec => exact Laws.OpcodeInRange.dec
  | encb => exact Laws.OpcodeInRange.encb
  | decb => exact Laws.OpcodeInRange.decb
  | clear => exact Laws.OpcodeInRange.clear

theorem decodeOpc_opcodeOf (i : Instr) : decodeOpc (opcodeOf i) = some i := by
  cases i <;> rfl

theorem decode_encode (i : Instr) : decode (encode i) = some i := by
  obtain ⟨-, hr, ho, -⟩ := opcodeInRange i
  rw [decode, if_pos hr, ho, decodeOpc_opcodeOf]

/-- Settles O3: a word that decodes is its command's word, and every command's word decodes to it. -/
theorem decodeIsTheOpcodeMap : Obligations.DecodeIsTheOpcodeMap := by
  intro w
  cases hd : decode w with
  | some i =>
    rw [eq_encode_of_decode hd]
    cases i <;> rfl
  | none =>
    have hne (i : Instr) : w ≠ encode i := by
      rintro rfl
      simp [decode_encode] at hd
    have hmap : w ≠ 0 ∧ w ≠ 1 ∧ w ≠ 2 ∧ w ≠ 3 ∧ w ≠ 4 ∧ w ≠ 5 ∧ w ≠ 6 :=
      ⟨hne .nop, hne .new, hne .enc, hne .dec, hne .encb, hne .decb, hne .clear⟩
    simp only [hmap, if_false]

/-- Settles O1: seven of the words are the commands' own; the other two are reserved, by RSVD and by OPC. -/
theorem writtenCommandWordsDecode : Obligations.WrittenCommandWordsDecode :=
  ⟨decode_encode .nop, decode_encode .new, decode_encode .enc, decode_encode .dec, decode_encode .encb,
    decode_encode .decb, decode_encode .clear, decode_reserved (.inl (by decide)), decode_reserved (.inr (by decide))⟩

/-- Settles O2: the two fields of a command's word are those of `opcodeInRange`. -/
theorem decodeOfEncodeIsTheCommand : Obligations.DecodeOfEncodeIsTheCommand := by
  intro i _
  obtain ⟨-, hr, ho, -⟩ := opcodeInRange i
  exact ⟨decode_encode i, hr, ho⟩

end Sys2Proof

namespace Sys2Proof.Machine

theorem engineTurn_of_reserved {s : State} (h : s.cstate = .busy) (hd : decode s.pend = none) :
    engineTurn s = .next (s.complete .illegal) := by
  simp [engineTurn, h, hd]

/-- Settles O4: a reserved word decodes to no command, and the engine's turn on it is the failed completion alone. -/
theorem reservedWordFailsIllegal : Obligations.ReservedWordFailsIllegal := by
  intro s hb hn hw
  rw [step_of_engineNext hn]
  exact engineTurn_of_reserved hb (decode_reserved hw)

end Sys2Proof.Machine
end

section
/-! Each command commutes with a change of the operand registers the table of R95 marks with a dash for it. -/

namespace Sys2Proof.Machine

/-- The state with other operands in ARG0, ARG1 and ARG2 (R34). -/
def State.withArgs (s : State) (a0 a1 a2 : Word) : State := { s with arg0 := a0, arg1 := a1, arg2 := a2 }

/-- The state with another block in DATA0 and DATA1 (R36). -/
def State.withData (s : State) (d0 d1 : Word) : State := { s with data0 := d0, data1 := d1 }

section Args

variable {s t : State} (a0 a1 a2 : Word)

/-- ENCB reads KEYV, the schedule and DATA0, DATA1, and no ARG register (R179). -/
theorem execEncb_withArgs (h : execEncb s = .next t) :
    execEncb (s.withArgs a0 a1 a2) = .next (t.withArgs a0 a1 a2) := by
  unfold execEncb at h
  split at h <;> rename_i hk <;> obtain rfl := Host.Outcome.next.inj h
  · exact if_pos hk
  · exact if_neg hk

/-- DECB reads KEYV, the schedule and DATA0, DATA1, and no ARG register (R180). -/
theorem execDecb_withArgs (h : execDecb s = .next t) :
    execDecb (s.withArgs a0 a1 a2) = .next (t.withArgs a0 a1 a2) := by
  unfold execDecb at h
  split at h <;> rename_i hk <;> obtain rfl := Host.Outcome.next.inj h
  · exact if_pos hk
  · exact if_neg hk

end Args

section Data

variable (s : State) {t : State} (d0 d1 : Word)

@[simp] theorem State.withData_newCheck : (s.withData d0 d1).newCheck = s.newCheck := rfl

@[simp] theorem State.withData_encCheck : (s.withData d0 d1).encCheck = s.encCheck := rfl

@[simp] theorem State.withData_decCheck : (s.withData d0 d1).decCheck = s.decCheck := rfl

theorem State.withData_construct (sel : LevelSel) :
    (s.withData d0 d1).construct sel = (s.construct sel).withData d0 d1 := by
  rw [State.construct_eq, State.construct_eq]
  rfl

theorem State.withData_encAfter (src n dst c : Nat) :
    (s.withData d0 d1).encAfter src n dst c = (s.encAfter src n dst c).withData d0 d1 :=
  List.foldl_hom (State.withData · d0 d1) fun _ _ => rfl

theorem State.withData_decAfter (src dst c : Nat) :
    (s.withData d0 d1).decAfter src dst c = (s.decAfter src dst c).withData d0 d1 :=
  List.foldl_hom (State.withData · d0 d1) fun _ _ => rfl

theorem State.withData_encRun : (s.withData d0 d1).encRun = s.encRun.withData d0 d1 := by
  rw [State.encRun_eq, State.withData_encAfter]
  rfl

theorem State.withData_decRun : (s.withData d0 d1).decRun = s.decRun.withData d0 d1 := by
  rw [State.decRun_eq, State.withData_decAfter]
  rfl

variable {s}

theorem execNew_withData (h : execNew s = .next t) : execNew (s.withData d0 d1) = .next (t.withData d0 d1) := by
  unfold execNew at h ⊢
  rw [State.withData_newCheck]
  cases hc : s.newCheck with
  | error e =>
    obtain rfl : s.failWith e = t := by simpa [hc] using h
    rfl
  | ok sel =>
    obtain rfl : (s.construct sel).succeed = t := by simpa [hc] using h
    simp only [State.withData_construct]
    rfl

theorem execEnc_withData (h : execEnc s = .next t) : execEnc (s.withData d0 d1) = .next (t.withData d0 d1) := by
  unfold execEnc at h ⊢
  rw [State.withData_encCheck, State.withData_encRun]
  cases hc : s.encCheck with
  | some e =>
    obtain rfl : s.failWith e = t := by simpa [hc] using h
    rfl
  | none =>
    obtain rfl : s.encRun.succeed = t := by simpa [hc] using h
    rfl

theorem execDec_withData (h : execDec s = .next t) : execDec (s.withData d0 d1) = .next (t.withData d0 d1) := by
  unfold execDec at h ⊢
  rw [State.withData_decCheck, State.withData_decRun]
  cases hc : s.decCheck with
  | some e =>
    obtain rfl : s.failWith e = t := by simpa [hc] using h
    rfl
  | none =>
    obtain rfl : s.decRun.succeed = t := by simpa [hc] using h
    rfl

end Data

/-- Settles O13: NOP and CLEAR read no operand at all; the others commute with a change of the unmarked ones. -/
theorem commandsIgnoreUnmarkedOperands : Obligations.CommandsIgnoreUnmarkedOperands := by
  refine ⟨fun i s t a0 a1 a2 hi h => ?_, fun i s t d0 d1 hi h => ?_⟩
  · rcases hi with rfl | rfl | rfl | rfl
    case inl | inr.inl =>
      obtain rfl := Host.Outcome.next.inj h
      rfl
    · exact execEncb_withArgs a0 a1 a2 h
    · exact execDecb_withArgs a0 a1 a2 h
  · rcases hi with rfl | rfl | rfl | rfl | rfl
    case inl | inr.inl =>
      obtain rfl := Host.Outcome.next.inj h
      rfl
    · exact execNew_withData d0 d1 h
    · exact execEnc_withData d0 d1 h
    · exact execDec_withData d0 d1 h

end Sys2Proof.Machine
end

section
/-! The SP-box arithmetic (R122 to R133): the Galois product commutes, as a bilinear product of powers of x; `perm32`
moves each bit; the four SP-box outputs of a round have no common bit. -/

namespace Sys2Proof.Machine

/-! ### The Galois product -/

/-- A word is a sum of single bits: a property of 0 and of every single bit that sums keep holds of every word. -/
theorem bitVec_xor_induction {w : Nat} {P : BitVec w → Prop} (zero : P 0#w)
    (xor : ∀ x y, P x → P y → P (x ^^^ y)) (bit : ∀ i < w, P (BitVec.twoPow w i)) (x : BitVec w) : P x := by
  have below (n : Nat) : ∀ x : BitVec w, (∀ i, n ≤ i → x.getLsbD i = false) → P x := by
    induction n with
    | zero =>
      intro x hx
      obtain rfl : x = 0#w := BitVec.eq_of_getLsbD_eq fun i _ => by simp [hx i]
      exact zero
    | succ n ih =>
      intro x hx
      cases hn : x.getLsbD n with
      | false =>
        refine ih x fun i hi => ?_
        rcases hi.eq_or_lt with rfl | hi
        · exact hn
        · exact hx i hi
      | true =>
        have hw : n < w := BitVec.lt_of_getLsbD hn
        rw [show x = x ^^^ BitVec.twoPow w n ^^^ BitVec.twoPow w n by simp]
        refine xor _ _ (ih _ fun i hi => ?_) (bit n hw)
        rcases hi.eq_or_lt with rfl | hi
        · simp [hn, hw]
        · simp [hx i hi, hi.ne]
  exact below w x fun i hi => BitVec.getLsbD_of_ge x i hi

theorem gfMult_zero_left (b : Byte) (m : BitVec 9) : gfMult 0 b m = 0 := by
  simpa using gfMult_xor_left 0 0 b m

theorem gfMult_zero_right (a : Byte) (m : BitVec 9) : gfMult a 0 m = 0 := by
  simpa using gfMult_xor_right a 0 0 m

theorem setWidth_twoPow {v w i : Nat} (hv : i < v) :
    (BitVec.twoPow v i).setWidth w = BitVec.twoPow w i :=
  BitVec.eq_of_getLsbD_eq fun j hj => by simp [hv, hj, eq_comm]

theorem twoPow_succ_ushiftRight {w j : Nat} (hj : j + 1 < w) :
    BitVec.twoPow w (j + 1) >>> 1 = BitVec.twoPow w j := by
  refine BitVec.eq_of_getLsbD_eq fun i _ => ?_
  rw [BitVec.getLsbD_ushiftRight, BitVec.getLsbD_twoPow, BitVec.getLsbD_twoPow, Nat.add_comm 1 i]
  simp [hj, Nat.lt_of_succ_lt hj]

/-- Below bit 8 the multiplicand's step only shifts. -/
theorem gfShift_twoPow (m : BitVec 9) {i : Nat} (hi : i < 7) :
    gfShift m (BitVec.twoPow 9 i) = BitVec.twoPow 9 (i + 1) := by
  have hs : BitVec.twoPow 9 i <<< 1 = BitVec.twoPow 9 (i + 1) := by
    rw [BitVec.twoPow_eq, BitVec.twoPow_eq, BitVec.shiftLeft_add]
  rw [gfShift, hs, if_neg]
  simp only [BitVec.getLsbD_twoPow, Bool.and_eq_true, decide_eq_true_eq]
  omega

theorem gfShift_iterate_one (m : BitVec 9) {i : Nat} (hi : i < 8) : (gfShift m)^[i] 1 = BitVec.twoPow 9 i := by
  induction i with
  | zero => rfl
  | succ i ih => rw [Function.iterate_succ_apply', ih (by omega), gfShift_twoPow m (by omega)]

/-- The loop on the single bit j adds the multiplicand once, after j steps. -/
theorem gfMultLoop_twoPow (m : BitVec 9) {n j : Nat} (a : BitVec 9) (hj : j < 8) (hn : j < n) :
    gfMultLoop m n a (BitVec.twoPow 8 j) 0 = (gfShift m)^[j] a := by
  induction n generalizing a j with
  | zero => omega
  | succ n ih =>
    rw [gfMultLoop_succ]
    cases j with
    | zero => simp [gfMultLoop_zero, BitVec.twoPow_zero]
    | succ j =>
      rw [twoPow_succ_ushiftRight hj, if_neg (by simp), ih _ (by omega) (by omega), Function.iterate_succ_apply]

/-- The product of two powers of x is the power of the summed exponents, reduced step by step. -/
theorem gfMult_twoPow (m : BitVec 9) {i j : Nat} (hi : i < 8) (hj : j < 8) :
    gfMult (BitVec.twoPow 8 i) (BitVec.twoPow 8 j) m = ((gfShift m)^[i + j] 1).setWidth 8 := by
  rw [gfMult, gfMultLoop_twoPow m _ hj hj, setWidth_twoPow (by omega), ← gfShift_iterate_one m hi,
    ← Function.iterate_add_apply, Nat.add_comm]

theorem gfMult_one_left (b : Byte) (m : BitVec 9) : gfMult 1 b m = b := by
  induction b using bitVec_xor_induction with
  | zero => exact gfMult_zero_right 1 m
  | xor x y hx hy => rw [gfMult_xor_right, hx, hy]
  | bit i hi =>
    calc gfMult 1 (BitVec.twoPow 8 i) m
      _ = ((gfShift m)^[0 + i] 1).setWidth 8 := gfMult_twoPow m (i := 0) (by decide) hi
      _ = BitVec.twoPow 8 i := by rw [Nat.zero_add, gfShift_iterate_one m hi, setWidth_twoPow (by omega)]

theorem gfMult_comm (a b : Byte) (m : BitVec 9) : gfMult a b m = gfMult b a m := by
  induction a using bitVec_xor_induction with
  | zero => exact (gfMult_zero_left b m).trans (gfMult_zero_right b m).symm
  | xor x y hx hy => rw [gfMult_xor_left, gfMult_xor_right, hx, hy]
  | bit i hi =>
    induction b using bitVec_xor_induction with
    | zero => exact (gfMult_zero_right _ m).trans (gfMult_zero_left _ m).symm
    | xor x y hx hy => rw [gfMult_xor_left, gfMult_xor_right, hx, hy]
    | bit j hj => rw [gfMult_twoPow m hi hj, gfMult_twoPow m hj hi, Nat.add_comm]

/-- Settles O30: the laws hold for every 9-bit modulus, so for the sixteen of the table. -/
theorem galoisProductCommutes : Obligations.GaloisProductCommutes :=
  ⟨by decide, fun t _ row _ a b => ⟨gfMult_zero_left b _, gfMult_zero_right a _, gfMult_one_left b _,
    gfMult_comm a b _⟩⟩

/-! ### The bit permutation -/

theorem pBox_eq_shiftLeft : ∀ k < 32, pBox k = 1 <<< pBoxDest k := by decide

theorem pBoxDest_lt : ∀ k < 32, pBoxDest k < 32 := by decide

theorem pBoxDest_injective : ∀ k < 32, ∀ k' < 32, pBoxDest k = pBoxDest k' → k = k' := by decide

/-- `pBox[k]` has the one bit dest(k) (R124). -/
theorem getLsbD_pBox {k j : Nat} (hk : k < 32) : (pBox k).getLsbD j = true ↔ pBoxDest k = j := by
  have hp : pBox k = BitVec.twoPow 32 (pBoxDest k) := by
    rw [pBox_eq_shiftLeft k hk]
    exact BitVec.eq_of_toNat_eq (by simp [Nat.shiftLeft_eq])
  rw [hp, BitVec.getLsbD_twoPow]
  simp [pBoxDest_lt k hk]

theorem getLsbD_perm32_pBoxDest (x : Word) {k : Nat} (hk : k < 32) :
    (perm32 x).getLsbD (pBoxDest k) = x.getLsbD k := by
  rw [Bool.eq_iff_iff, getLsbD_perm32]
  constructor
  · rintro ⟨k', hk', hx, hp⟩
    rwa [← pBoxDest_injective k' hk' k hk ((getLsbD_pBox hk').mp hp)]
  · exact fun hx => ⟨k, hk, hx, (getLsbD_pBox hk).mpr rfl⟩

/-- Settles O31: each mask has its one bit, and dest is a permutation of the 32 places. -/
theorem permuteMovesEachBit : Obligations.PermuteMovesEachBit :=
  ⟨pBox_eq_shiftLeft, by decide, fun x _ hk => getLsbD_perm32_pBoxDest x hk⟩

/-! ### The SP-box outputs -/

/-- A set bit of `spEntry(t, i)` comes from byte 3−t of `perm32`'s input (R131). -/
theorem exists_pBoxDest_of_getLsbD_spEntry {t i j : Nat} (h : (spEntry t i).getLsbD j = true) :
    ∃ k < 32, 24 - 8 * t ≤ k ∧ k < 24 - 8 * t + 8 ∧ j = pBoxDest k := by
  obtain ⟨k, hk, hx, hp⟩ := (getLsbD_perm32 _ j).mp h
  simp only [BitVec.getLsbD_shiftLeft, BitVec.getLsbD_setWidth, Bool.and_eq_true, Bool.not_eq_true',
    decide_eq_false_iff_not] at hx
  obtain ⟨⟨-, hlo⟩, -, hb⟩ := hx
  have hbyte := BitVec.lt_of_getLsbD hb
  exact ⟨k, hk, by omega, by omega, ((getLsbD_pBox hk).mp hp).symm⟩

/-- Two SP-boxes have no output bit in common (R122). -/
theorem spEntry_and_spEntry {t t' : Nat} (ht : t < t') (ht' : t' < 4) (i i' : Nat) :
    spEntry t i &&& spEntry t' i' = 0 := by
  refine BitVec.eq_of_getLsbD_eq fun j hj => ?_
  by_contra hne
  obtain ⟨h, h'⟩ : (spEntry t i).getLsbD j = true ∧ (spEntry t' i').getLsbD j = true := by simpa using hne
  obtain ⟨k, hk, hlo, hhi, rfl⟩ := exists_pBoxDest_of_getLsbD_spEntry h
  obtain ⟨k', hk', hlo', hhi', hkk⟩ := exists_pBoxDest_of_getLsbD_spEntry h'
  obtain rfl := pBoxDest_injective k hk k' hk' hkk
  omega

theorem or_eq_xor_of_and_eq_zero {w : Nat} {x y : BitVec w} (h : x &&& y = 0#w) : x ||| y = x ^^^ y := by
  refine BitVec.eq_of_getLsbD_eq fun j _ => ?_
  have hj : (x.getLsbD j && y.getLsbD j) = false := by rw [← BitVec.getLsbD_and, h, BitVec.getLsbD_zero]
  rw [BitVec.getLsbD_or, BitVec.getLsbD_xor]
  cases hx : x.getLsbD j with
  | false => simp
  | true => simp [show y.getLsbD j = false by simpa [hx] using hj]

/-- The OR of four entries, one of each SP-box, is their XOR and their sum (R122). -/
theorem spEntry_or (i0 i1 i2 i3 : Nat) :
    spEntry 0 i0 ||| spEntry 1 i1 ||| spEntry 2 i2 ||| spEntry 3 i3 =
        spEntry 0 i0 ^^^ spEntry 1 i1 ^^^ spEntry 2 i2 ^^^ spEntry 3 i3 ∧
      spEntry 0 i0 ||| spEntry 1 i1 ||| spEntry 2 i2 ||| spEntry 3 i3 =
        spEntry 0 i0 + spEntry 1 i1 + spEntry 2 i2 + spEntry 3 i3 := by
  have h1 : spEntry 0 i0 &&& spEntry 1 i1 = 0 := spEntry_and_spEntry (by decide) (by decide) ..
  have h2 : (spEntry 0 i0 ||| spEntry 1 i1) &&& spEntry 2 i2 = 0 := by
    simp [BitVec.and_or_distrib_right, spEntry_and_spEntry]
  have h3 : (spEntry 0 i0 ||| spEntry 1 i1 ||| spEntry 2 i2) &&& spEntry 3 i3 = 0 := by
    simp [BitVec.and_or_distrib_right, spEntry_and_spEntry]
  constructor
  · rw [or_eq_xor_of_and_eq_zero h3, or_eq_xor_of_and_eq_zero h2, or_eq_xor_of_and_eq_zero h1]
  · rw [← BitVec.add_eq_or_of_and_eq_zero _ _ h3, ← BitVec.add_eq_or_of_and_eq_zero _ _ h2,
      ← BitVec.add_eq_or_of_and_eq_zero _ _ h1]

/-- With the built tables the round function's look-up is the OR of four entries (R132, R172). -/
theorem spCombine_spTables (al ar : SubkeyWord) :
    spCombine spTables al ar =
      spEntry 0 (al >>> 10).toNat ||| spEntry 1 (al &&& 0x3ff).toNat |||
        spEntry 2 (ar >>> 10).toNat ||| spEntry 3 (ar &&& 0x3ff).toNat := by
  have hhi (x : SubkeyWord) : (x >>> 10).toNat < 1024 := by
    rw [BitVec.toNat_ushiftRight, Nat.shiftRight_eq_div_pow]
    omega
  have hlo (x : SubkeyWord) : (x &&& 0x3ff).toNat < 1024 := by
    rw [BitVec.toNat_and]
    exact Nat.and_lt_two_pow _ (n := 10) (by decide)
  rw [spCombine, spAt_spTables (by decide) (hhi al), spAt_spTables (by decide) (hlo al),
    spAt_spTables (by decide) (hhi ar), spAt_spTables (by decide) (hlo ar)]

/-- Settles O32: a set bit of an entry is placed by one byte, and no two of the four entries share a bit. -/
theorem spBoxOutputsAreDisjoint : Obligations.SPBoxOutputsAreDisjoint := by
  refine ⟨fun t ht i _ j hj h => ?_, fun al ar => ?_⟩
  · obtain ⟨k, -, hlo, hhi, hd⟩ := exists_pBoxDest_of_getLsbD_spEntry h
    exact ⟨k, by omega, by omega, hd⟩
  · rw [spCombine_spTables]
    exact spEntry_or ..

end Sys2Proof.Machine
end

section
/-! The key schedule bit by bit: the rotate-with-inversion step, the fill routine in closed form, and the schedule of
either regime (R145 to R152). -/

namespace Sys2Proof.Machine

open Sys2Proof.Stated

/-! ### Rotate-with-inversion -/

/-- Sixteen steps complement a key word (R149). -/
theorem rotInv_iterate_sixteen (v : KeyWord) : rotInv^[16] v = ~~~v := by
  refine BitVec.eq_of_getLsbD_eq fun j hj => ?_
  have hmod : (j + 16) % 16 = j := by omega
  have hdiv : (j + 16) / 16 = 1 := by omega
  rw [getLsbD_rotInv_iterate v 16 j hj, hmod, hdiv]
  simp [hj]

/-- Settles O28: thirty-two steps are two complements. -/
theorem rotateWithInversion : Obligations.RotateWithInversion := by
  refine fun v => ⟨fun j hj => ?_, rotInv_getLsbD v 15 (by decide), rotInv_iterate_sixteen v, ?_⟩
  · rw [rotInv_getLsbD v j (by omega), if_neg (by omega)]
  · rw [Function.iterate_add_apply rotInv 16 16, rotInv_iterate_sixteen, rotInv_iterate_sixteen, BitVec.not_not]

/-! ### One triple and one fill -/

/-- Bit k of group q of a triple's word s is bit 0 of its key word after 3q + s iterations (R148, R151). -/
theorem getLsbD_tripleWord (kr : BitVec 2) (kb : KBW) (s : Nat) {q k : Nat} (hq : q < 5) (hk : k < 4) :
    (tripleWord kr kb s).getLsbD (19 - 4 * q - k) =
      (rotInv^[3 * q + s] (kb.get (kr + BitVec.ofNat 2 k))).getLsbD 0 := by
  have hplace : 19 - 4 * q - k = 20 - 1 - (4 * q + k) := by omega
  have hgroup : (4 * q + k) / 4 = q := by omega
  have hbit : (4 * q + k) % 4 = k := by omega
  rw [hplace, tripleWord, getLsbD_foldl_pushBit _ 20 (4 * q + k) (by decide) (by omega), hgroup, hbit,
    KBW.get_stepAll_iterate]

theorem subkeyWord_fillTriple (kr : BitVec 2) (kb : KBW) {sw : Nat} (h : sw < 3) :
    subkeyWord (fillTriple kr kb).1 sw = tripleWord kr kb sw := by
  rw [fillTriple_fst]
  interval_cases sw <;> rfl

/-- Triple i of a fill pass starts from key words stepped 120 times for each pass before and 15 times for each triple
before, and the iterates of a key word add up (R148, R150). -/
theorem isTriple_fillTriple (kb : KBW) (pass i : Nat) :
    isTriple kb pass i (fillTriple (keyrot (8 * pass + i)) (KBW.stepAll^[120 * pass + 15 * i] kb)).1 := by
  intro sw hsw q hq k hk
  have hsum : 0 + (3 * q + sw + (120 * pass + 15 * i)) = 120 * pass + 15 * i + 3 * q + sw := by omega
  rw [subkeyWord_fillTriple _ _ hsw, getLsbD_tripleWord _ _ _ hq hk, KBW.get_stepAll_iterate,
    ← Function.iterate_add_apply, getLsbD_rotInv_iterate _ _ 0 (by decide), hsum]
  rfl

/-- A fill steps every key word 120 times, wherever it writes (R148). -/
@[simp] theorem fill_snd (n ro : Nat) (p : List Subkey × KBW) : (fill n ro p).2 = KBW.stepAll^[120] p.2 := by
  simp [fill, List.range_succ, fillTriple_snd]

/-- A fill of either pass in closed form, from the key words that the passes before it left (R148, R150). -/
theorem isTriple_fill {n : Nat} (kb : KBW) (pass : Nat) {p : List Subkey × KBW} (hn : n + 8 ≤ p.1.length)
    (hp : p.2 = KBW.stepAll^[120 * pass] kb) {i : Nat} (hi : i < 8) :
    isTriple kb pass i (subkeyAt (fill n (8 * pass) p).1 (n + i)) := by
  obtain ⟨ks, kb'⟩ := p
  obtain rfl : kb' = KBW.stepAll^[120 * pass] kb := hp
  obtain ⟨-, -, htriple, -⟩ := fill_spec n (8 * pass) ks (KBW.stepAll^[120 * pass] kb) hn
  rw [htriple i hi, ← Function.iterate_add_apply, Nat.add_comm (15 * i)]
  exact isTriple_fillTriple kb pass i

/-- A fill leaves every triple but its eight (R148). -/
theorem subkeyAt_fill_of_outside {n : Nat} (ro : Nat) {p : List Subkey × KBW} (hn : n + 8 ≤ p.1.length) {i : Nat}
    (hi : i < n ∨ n + 8 ≤ i) : subkeyAt (fill n ro p).1 i = subkeyAt p.1 i := by
  obtain ⟨-, -, -, houtside⟩ := fill_spec n ro p.1 p.2 hn
  exact houtside i hi

/-- Settles O29: the second fill starts from the key words the first left, stepped 120 times. -/
theorem fillPlacesEveryBit : Obligations.FillPlacesEveryBit := by
  intro ks kb n n' hn hn'
  have hlen : n' + 8 ≤ (fill n 0 (ks, kb)).1.length := by rwa [fill_length]
  exact ⟨fun i hi => isTriple_fill kb 0 hn rfl hi, fun i hi => subkeyAt_fill_of_outside 0 hn hi,
    fun i hi => isTriple_fill kb 1 hlen (fill_snd n 0 (ks, kb)) hi,
    fun i hi => subkeyAt_fill_of_outside 8 hlen hi⟩

/-! ### The two regimes -/

/-- The thin regime in closed form: one first fill at triple 0 (R146). -/
theorem isTriple_buildThin (key : List Byte) {ks : List Subkey} (hlen : 8 ≤ ks.length) {i : Nat} (hi : i < 8) :
    isTriple (loadKB key 0) 0 i (subkeyAt (buildThin key ks).1 i) := by
  have h := isTriple_fill (n := 0) (p := (ks, loadKB key 0)) (loadKB key 0) 0 (by simpa using hlen) rfl hi
  rwa [Nat.zero_add] at h

theorem subkeyAt_buildThin_of_ge (key : List Byte) {ks : List Subkey} (hlen : 8 ≤ ks.length) {i : Nat}
    (hi : 8 ≤ i) : subkeyAt (buildThin key ks).1 i = subkeyAt ks i :=
  subkeyAt_fill_of_outside (p := (ks, loadKB key 0)) 0 (by simpa using hlen) (.inr (by omega))

/-- The multi-level regime in closed form: both fills of every key block (R147, R150, R152). -/
theorem isTriple_buildMulti (key : List Byte) {lv : Nat} {ks : List Subkey} (kb : KBW) (hlen : 16 * lv ≤ ks.length)
    {b i : Nat} (hb : b < lv) (hi : i < 8) :
    isTriple (loadKB key b) 0 i (subkeyAt (buildMulti key lv (16 * lv) (ks, kb)).1 (8 * b + i)) ∧
      isTriple (loadKB key b) 1 i
        (subkeyAt (buildMulti key lv (16 * lv) (ks, kb)).1 (16 * lv - 8 - 8 * b + i)) := by
  obtain ⟨-, hblocks, -⟩ := foldl_buildBlock key lv ks kb hlen lv (Nat.le_refl lv)
  obtain ⟨hfirst, hsecond⟩ := hblocks b hb i hi
  have h0 := isTriple_fillTriple (loadKB key b) 0 i
  simp only [Nat.mul_zero, Nat.zero_add] at h0
  exact ⟨hfirst ▸ h0, hsecond ▸ isTriple_fillTriple (loadKB key b) 1 i⟩

theorem subkeyAt_buildMulti_of_ge (key : List Byte) {lv : Nat} {ks : List Subkey} (kb : KBW)
    (hlen : 16 * lv ≤ ks.length) {i : Nat} (hi : 16 * lv ≤ i) :
    subkeyAt (buildMulti key lv (16 * lv) (ks, kb)).1 i = subkeyAt ks i := by
  obtain ⟨-, -, hbeyond⟩ := foldl_buildBlock key lv ks kb hlen lv (Nat.le_refl lv)
  exact hbeyond i hi

/-- Every triple below rounds is one of the sixteen of some key block (R152). -/
theorem exists_block_of_lt {lv i : Nat} (h : i < 16 * lv) :
    ∃ b < lv, ∃ j < 8, i = 8 * b + j ∨ i = 16 * lv - 8 - 8 * b + j := by
  by_cases hi : i < 8 * lv
  · exact ⟨i / 8, by omega, i % 8, by omega, .inl (by omega)⟩
  · exact ⟨2 * lv - 1 - i / 8, by omega, i % 8, by omega, .inr (by omega)⟩

/-- The thin regime depends on the key alone (R146). -/
theorem buildThin_indep (key : List Byte) {ks ks' : List Subkey} (hlen : 8 ≤ ks.length) (hlen' : 8 ≤ ks'.length) :
    (buildThin key ks).2 = (buildThin key ks').2 ∧
      ∀ i < 8, subkeyAt (buildThin key ks).1 i = subkeyAt (buildThin key ks').1 i := by
  obtain ⟨hkb, -, htriple, -⟩ := fill_spec 0 0 ks (loadKB key 0) (by omega)
  obtain ⟨hkb', -, htriple', -⟩ := fill_spec 0 0 ks' (loadKB key 0) (by omega)
  refine ⟨hkb.trans hkb'.symm, fun i hi => ?_⟩
  simpa only [buildThin, Nat.zero_add] using (htriple i hi).trans (htriple' i hi).symm

/-- The key words the multi-level regime leaves are the last block's, stepped twice 120 times (R147, R150). -/
theorem buildMulti_succ_snd (key : List Byte) (c rounds : Nat) (p : List Subkey × KBW) :
    (buildMulti key (c + 1) rounds p).2 = KBW.stepAll^[120] (KBW.stepAll^[120] (loadKB key c)) := by
  simp only [buildMulti, List.range_succ, List.foldl_append, List.foldl_cons, List.foldl_nil, buildBlock, fill_snd]

/-- The multi-level regime depends on the key alone (R147, R152). -/
theorem buildMulti_indep (key : List Byte) {lv : Nat} (h1 : 1 ≤ lv) {p p' : List Subkey × KBW}
    (hlen : 16 * lv ≤ p.1.length) (hlen' : 16 * lv ≤ p'.1.length) :
    (buildMulti key lv (16 * lv) p).2 = (buildMulti key lv (16 * lv) p').2 ∧
      ∀ i < 16 * lv, subkeyAt (buildMulti key lv (16 * lv) p).1 i =
        subkeyAt (buildMulti key lv (16 * lv) p').1 i := by
  constructor
  · obtain ⟨c, rfl⟩ := Nat.exists_eq_add_of_le' h1
    rw [buildMulti_succ_snd, buildMulti_succ_snd]
  · intro i hi
    obtain ⟨-, hblocks, -⟩ := foldl_buildBlock key lv p.1 p.2 hlen lv (Nat.le_refl lv)
    obtain ⟨-, hblocks', -⟩ := foldl_buildBlock key lv p'.1 p'.2 hlen' lv (Nat.le_refl lv)
    obtain ⟨b, hb, j, hj, rfl | rfl⟩ := exists_block_of_lt hi
    · exact (hblocks b hb j hj).1.trans (hblocks' b hb j hj).1.symm
    · exact (hblocks b hb j hj).2.trans (hblocks' b hb j hj).2.symm

end Sys2Proof.Machine
end

section
/-! NEW: its checks in order, and the instance it builds (R141 to R144). -/

namespace Sys2Proof.Machine

open Sys2Proof.Stated

/-! ### The checks -/

theorem exec_new_of_error {s : State} {e : ErrCode} (h : s.newCheck = .error e) :
    exec .new s = .next (s.complete e) := by
  simp [exec, execNew, h]

theorem exec_new_of_ok {s : State} {sel : LevelSel} (h : s.newCheck = .ok sel) :
    exec .new s = .next ((s.construct sel).complete .ok) := by
  simp [exec, execNew, h]

/-- A level above MAX_LEVEL selects nothing (R141). -/
theorem decodeLevel_above {c : Params} {a : Word} (h : (c.maxLevel : Int) < a.toInt) : decodeLevel c a = none := by
  unfold decodeLevel
  rw [if_neg (by omega), if_neg (by omega)]

/-- Any other level selects its key size (R141). -/
theorem decodeLevel_size {c : Params} {a : Word} (h : a.toInt ≤ (c.maxLevel : Int)) :
    ∃ sel, decodeLevel c a = some sel ∧ sel.size = keySizeOf a := by
  by_cases h1 : a.toInt < 1
  · exact ⟨_, decodeLevel_thin c h1, by simp [keySizeOf, h1]⟩
  · refine ⟨_, decodeLevel_levelled (lv := a.toInt.toNat) (by omega) (by omega) (by omega), ?_⟩
    simp [keySizeOf, h1]

/-- The checks after the level decode (R142). -/
theorem State.newCheck_of_decodeLevel {s : State} {sel : LevelSel} (h : decodeLevel s.cfg s.arg0 = some sel) :
    s.newCheck =
      if s.cfg.dbufBytes < s.arg1.toNat + s.arg2.toNat then .error .range
      else if s.arg2.toNat < sel.size ∧ s.cfg.shortKey = .reject then .error .keyLen
      else .ok sel := by
  simp [State.newCheck, inRange, h]

/-- Settles O24: the level decode first, then the range, then the key length. -/
theorem newChecksInOrder : Obligations.NewChecksInOrder := by
  intro s
  refine ⟨fun hlv => ?_, fun hlv hrange => ?_, fun hlv hrange hkey hpol => ?_⟩
  · have hc : s.newCheck = .error .level := by simp [State.newCheck, decodeLevel_above hlv]
    exact exec_new_of_error hc
  · obtain ⟨sel, hsel, -⟩ := decodeLevel_size hlv
    exact exec_new_of_error ((State.newCheck_of_decodeLevel hsel).trans (if_pos hrange))
  · obtain ⟨sel, hsel, hsize⟩ := decodeLevel_size hlv
    refine exec_new_of_error (e := .keyLen) ?_
    rw [State.newCheck_of_decodeLevel hsel, if_neg (by omega), if_pos ⟨by omega, hpol⟩]

/-- With the key region in DBUF and enough key bytes, or zero padding, NEW constructs (R142). -/
theorem exec_new_constructs {s : State} {sel : LevelSel} (h : decodeLevel s.cfg s.arg0 = some sel)
    (hrange : s.arg1.toNat + s.arg2.toNat ≤ s.cfg.dbufBytes)
    (hkey : sel.size ≤ s.arg2.toNat ∨ s.cfg.shortKey = .zeroPad) :
    exec .new s = .next ((s.construct sel).complete .ok) := by
  refine exec_new_of_ok ((s.newCheck_eq_ok sel).mpr ⟨h, hrange, ?_⟩)
  rintro ⟨hshort, hpol⟩
  rcases hkey with hkey | hkey
  · omega
  · exact absurd (hkey.symm.trans hpol) nofun

/-! ### The instance -/

/-- The schedule NEW builds below level 1 (R146). -/
theorem State.newSchedule_thin (s : State) : s.newSchedule ⟨0, 8, 8⟩ = buildThin (keyBytes s 8) s.ks := rfl

/-- The schedule NEW builds at level lv (R147). -/
theorem State.newSchedule_levelled (s : State) (lv : Nat) :
    s.newSchedule ⟨lv, 16 * lv, 8 * lv⟩ = buildMulti (keyBytes s (8 * lv)) lv (16 * lv) (s.ks, s.kbw) :=
  if_neg (show ¬ 16 * lv = 8 by omega)

@[simp] theorem State.construct_ks (s : State) (sel : LevelSel) :
    (s.construct sel).ks = (s.newSchedule sel).1 := rfl

/-- SP after a construction: valid, kept where it was built, and the entry function where it was not (R132, R144). -/
theorem State.construct_sp (s : State) (sel : LevelSel) :
    (s.construct sel).spbv = true ∧ (s.spbv = true → (s.construct sel).sp = s.sp) ∧
      (s.spbv = false → ∀ b < 4, ∀ i < 1024, spAt (s.construct sel).sp b i = spEntry b i) := by
  rw [State.construct_eq]
  refine ⟨rfl, fun h => if_pos h, fun h b hb i hi => ?_⟩
  simp only [h, Bool.false_eq_true, if_false]
  exact spAt_spTables hb hi

/-- KS holds every schedule a level decode allows (R43). -/
theorem rounds_le_ksEntries {c : Params} {a : Word} {sel : LevelSel} (h : decodeLevel c a = some sel) :
    sel.rounds ≤ c.ksEntries := by
  unfold Params.ksEntries
  rcases decodeLevel_eq_some h with ⟨-, rfl⟩ | ⟨lv, -, -, hle, rfl⟩
  · exact Nat.le_max_left 8 _
  · exact le_max_of_le_right (Nat.mul_le_mul_left 16 hle)

/-- Settles O25: the checks pass, and the thin regime is one fill from the first key block. -/
theorem newBuildsTheThinInstance : Obligations.NewBuildsTheThinInstance := by
  intro s _ hks hlv hrange hkey
  have hsel := decodeLevel_thin s.cfg hlv
  have hlen : 8 ≤ s.ks.length := hks ▸ rounds_le_ksEntries hsel
  obtain ⟨hspbv, hkept, hbuilt⟩ := s.construct_sp ⟨0, 8, 8⟩
  refine ⟨_, exec_new_constructs hsel hrange hkey, rfl, rfl, rfl, rfl, hspbv, rfl, rfl, rfl, fun i hi => ?_,
    fun i hi => ?_, hkept, hbuilt⟩
  · rw [State.complete_ks, State.construct_ks, State.newSchedule_thin]
    exact isTriple_buildThin (keyBytes s 8) hlen hi
  · rw [State.complete_ks, State.construct_ks, State.newSchedule_thin]
    exact subkeyAt_buildThin_of_ge (keyBytes s 8) hlen hi

/-- Settles O26: the checks pass, and the multi-level regime fills twice from each key block. -/
theorem newBuildsTheLevelledInstance : Obligations.NewBuildsTheLevelledInstance := by
  intro s lv hlegal hks hlv h1 hmax hrange hkey
  have hsel := decodeLevel_levelled hlv h1 hmax
  have hlen : 16 * lv ≤ s.ks.length := hks ▸ rounds_le_ksEntries hsel
  have hsmall : lv ≤ 65535 := by
    simp only [Params.legal, Bool.and_eq_true, decide_eq_true_eq] at hlegal
    omega
  obtain ⟨hspbv, hkept, hbuilt⟩ := s.construct_sp ⟨lv, 16 * lv, 8 * lv⟩
  refine ⟨_, exec_new_constructs hsel hrange hkey, Nat.mod_eq_of_lt (show lv < 2 ^ 32 by omega),
    Nat.mod_eq_of_lt (show 16 * lv < 2 ^ 32 by omega), Nat.mod_eq_of_lt (show 8 * lv < 2 ^ 32 by omega), rfl,
    hspbv, rfl, rfl, rfl, fun b hb i hi => ?_, fun i hi => ?_, hkept, hbuilt⟩
  · rw [State.complete_ks, State.construct_ks, State.newSchedule_levelled]
    exact isTriple_buildMulti (keyBytes s (8 * lv)) s.kbw hlen hb hi
  · rw [State.complete_ks, State.construct_ks, State.newSchedule_levelled]
    exact subkeyAt_buildMulti_of_ge (keyBytes s (8 * lv)) s.kbw hlen hi

/-- The key words and the triples below rounds that NEW leaves depend on neither KS nor KBW (R144). -/
theorem State.newSchedule_indep {s : State} {sel : LevelSel} (h : decodeLevel s.cfg s.arg0 = some sel)
    {ks : List Subkey} (kbw : KBW) (hks : s.ks.length = s.cfg.ksEntries) (hks' : ks.length = s.cfg.ksEntries) :
    (State.newSchedule { s with ks := ks, kbw := kbw } sel).2 = (s.newSchedule sel).2 ∧
      ∀ i < sel.rounds, subkeyAt (State.newSchedule { s with ks := ks, kbw := kbw } sel).1 i =
        subkeyAt (s.newSchedule sel).1 i := by
  have hlen : sel.rounds ≤ s.ks.length := hks ▸ rounds_le_ksEntries h
  have hlen' : sel.rounds ≤ ks.length := hks' ▸ rounds_le_ksEntries h
  rcases decodeLevel_eq_some h with ⟨-, rfl⟩ | ⟨lv, -, h1, -, rfl⟩
  · exact buildThin_indep (keyBytes s 8) hlen' hlen
  · rw [State.newSchedule_levelled, State.newSchedule_levelled]
    exact buildMulti_indep (keyBytes s (8 * lv)) h1 hlen' hlen

/-- Settles O27: the checks read neither KS nor KBW, and the schedule they lead to depends on neither. -/
theorem newDoesNotDependOnThePreviousSchedule : Obligations.NewDoesNotDependOnThePreviousSchedule := by
  intro s t ks kbw hx herr hks hks' _
  obtain ⟨sel, hc, rfl⟩ := exec_ok hx herr
  obtain ⟨hsel, -, -⟩ := (s.newCheck_eq_ok sel).mp hc
  obtain ⟨hkbw, htriples⟩ := State.newSchedule_indep hsel kbw hks hks'
  refine ⟨_, exec_new_of_ok (s := { s with ks := ks, kbw := kbw }) hc, rfl, rfl, hkbw, ?_, fun i hi => ?_⟩
  · simp [State.construct_eq]
  · have hlt : i < sel.rounds % 2 ^ 32 := hi
    exact htriples i (Nat.lt_of_lt_of_le hlt (Nat.mod_le _ _))

end Sys2Proof.Machine
end

section
/-! The round function and the block core (R170 to R181): the expansion and the salt swap bit by bit, ENCB and DECB
as the two traversals, and each traversal undone by the other. -/

namespace Sys2Proof.Machine

/-! ### The expansion -/

/-- The low mask of the expansion; the model casts it from a number. -/
theorem getLsbD_lowTenMask : ∀ i < 32, ((0x3ff : Nat) : Word).getLsbD i = decide (i < 10) := by decide

theorem getLsbD_highTenMask : ∀ i < 32, (0xffc00 : Word).getLsbD i = decide (10 ≤ i ∧ i < 20) := by decide

/-- Where each bit of `tl` comes from (R170). -/
theorem getLsbD_expandL (p : Word) {i : Nat} (hi : i < 20) :
    (expandL p).getLsbD i = p.getLsbD (if i < 10 then i + 16 else if i < 18 then i + 14 else i - 18) := by
  simp only [expandL, BitVec.getLsbD_setWidth, BitVec.getLsbD_or, BitVec.getLsbD_and, BitVec.getLsbD_ushiftRight,
    BitVec.getLsbD_shiftLeft, getLsbD_lowTenMask i (by omega), getLsbD_highTenMask i (by omega)]
  by_cases h10 : i < 10
  · simp [h10, hi, Nat.add_comm]
  · by_cases h18 : i < 18
    · simp [h10, h18, hi, Nat.add_comm, Nat.le_of_not_lt h10]
    · have hbeyond : p.getLsbD (14 + i) = false := BitVec.getLsbD_of_ge p (14 + i) (by omega)
      simp [h10, h18, hi, hbeyond, Nat.le_of_not_lt h10, show i < 32 by omega]

/-- Where each bit of `tr` comes from (R170). -/
theorem getLsbD_expandR (p : Word) {i : Nat} (hi : i < 20) :
    (expandR p).getLsbD i = p.getLsbD (if i < 10 then i else i - 2) := by
  simp only [expandR, BitVec.getLsbD_setWidth, BitVec.getLsbD_or, BitVec.getLsbD_and,
    BitVec.getLsbD_shiftLeft, getLsbD_lowTenMask i (by omega), getLsbD_highTenMask i (by omega)]
  by_cases h10 : i < 10
  · simp [h10, hi]
  · simp [h10, hi, Nat.le_of_not_lt h10, show i < 32 by omega, show ¬ i < 2 by omega]

/-- A field of a word is a field of another where its bits are (R170). -/
theorem extractLsb'_eq_of_getLsbD {v w n a b : Nat} {x : BitVec v} {y : BitVec w}
    (h : ∀ i < n, x.getLsbD (a + i) = y.getLsbD (b + i)) : x.extractLsb' a n = y.extractLsb' b n := by
  refine BitVec.eq_of_getLsbD_eq fun i hi => ?_
  rw [BitVec.getLsbD_extractLsb', BitVec.getLsbD_extractLsb', h i hi]

/-- Settles O33: each field of tl and tr, by the place its bits come from. -/
theorem expansionBits : Obligations.ExpansionBits := by
  intro p
  refine ⟨?_, ?_, ?_, ?_, ?_⟩ <;> refine extractLsb'_eq_of_getLsbD fun i hi => ?_
  · rw [getLsbD_expandL p (by omega), if_pos (by omega)]
    congr 1; omega
  · rw [getLsbD_expandL p (by omega), if_neg (by omega), if_pos (by omega)]
    congr 1; omega
  · rw [getLsbD_expandL p (by omega), if_neg (by omega), if_neg (by omega)]
    congr 1; omega
  · rw [getLsbD_expandR p (by omega), if_pos (by omega)]
  · rw [getLsbD_expandR p (by omega), if_neg (by omega)]
    congr 1; omega

/-! ### The round function -/

/-- Masked by `c`, the difference of two bits exchanges them (R171). -/
theorem xor_masked_difference (c l r : Bool) : ((c && (l ^^ r)) ^^ l) = if c then r else l := by
  cases c
  · simp
  · simp [Bool.xor_comm l]

/-- Bit i of the left half after the salt swap (R171). -/
theorem getLsbD_saltL (p : Word) (sk : Subkey) (i : Nat) :
    (saltL p sk).getLsbD i = if sk.k2.getLsbD i then (expandR p).getLsbD i else (expandL p).getLsbD i := by
  rw [saltL, BitVec.getLsbD_xor, BitVec.getLsbD_and, BitVec.getLsbD_xor, xor_masked_difference]

/-- Bit i of the right half after the salt swap (R171). -/
theorem getLsbD_saltR (p : Word) (sk : Subkey) (i : Nat) :
    (saltR p sk).getLsbD i = if sk.k2.getLsbD i then (expandL p).getLsbD i else (expandR p).getLsbD i := by
  rw [saltR, BitVec.xor_comm (expandL p), BitVec.getLsbD_xor, BitVec.getLsbD_and, BitVec.getLsbD_xor,
    xor_masked_difference]

/-- The high ten bits of a subkey word, as a table index (R172). -/
theorem toNat_highTen (x : SubkeyWord) : (x >>> 10).toNat = x.toNat / 1024 := by
  rw [BitVec.toNat_ushiftRight, Nat.shiftRight_eq_div_pow]

/-- The low ten bits of a subkey word, as a table index (R172). -/
theorem toNat_lowTen (x : SubkeyWord) : (x &&& 0x3ff).toNat = x.toNat % 1024 := by
  rw [BitVec.toNat_and]
  exact Nat.and_two_pow_sub_one_eq_mod x.toNat 10

/-- The SP-box combination with its four indices as numbers (R172). -/
theorem spCombine_eq (sp : List (List Word)) (al ar : SubkeyWord) :
    spCombine sp al ar =
      spAt sp 0 (al.toNat / 1024) ||| spAt sp 1 (al.toNat % 1024) |||
        spAt sp 2 (ar.toNat / 1024) ||| spAt sp 3 (ar.toNat % 1024) := by
  simp only [spCombine, toNat_highTen, toNat_lowTen]

/-- Settles O34: al and ar are the salted halves with sk0 and sk1 mixed in. -/
theorem roundFunctionSwapsMixesAndLooksUp : Obligations.RoundFunctionSwapsMixesAndLooksUp := by
  intro sp p sk
  refine ⟨saltL p sk ^^^ sk.k0, saltR p sk ^^^ sk.k1, fun i _ => ?_, fun i _ => ?_, spCombine_eq sp _ _⟩
  · rw [BitVec.getLsbD_xor, getLsbD_saltL]
  · rw [BitVec.getLsbD_xor, getLsbD_saltR]

/-! ### ENCB and DECB -/

/-- Writing the block back and reading it again exchanges the halves (R179). -/
@[simp] theorem State.dataHalves_putHalves (s : State) (h : Halves) : (s.putHalves h).dataHalves = h.swap := rfl

theorem exec_encb_of_keyed {s : State} (h : s.keyv = true) :
    exec .encb s = .next ((s.putHalves (s.encHalves s.dataHalves)).complete .ok) := by
  simp [exec, execEncb, h]

theorem exec_decb_of_keyed {s : State} (h : s.keyv = true) :
    exec .decb s = .next ((s.putHalves (s.decHalves s.dataHalves)).complete .ok) := by
  simp [exec, execDecb, h]

/-- Settles O35: L and R run through the halves after each iteration upward. -/
theorem encbEncryptsInPlace : Obligations.EncbEncryptsInPlace := by
  intro s hkey
  refine ⟨fun k => (encAfterRounds s.sp s.ks k s.dataHalves).l, fun k => (encAfterRounds s.sp s.ks k s.dataHalves).r,
    rfl, rfl, fun k _ => ?_, exec_encb_of_keyed hkey⟩
  simp only [encAfterRounds_succ]
  exact ⟨rfl, rfl⟩

/-- Settles O36: L and R run through the halves after each iteration downward. -/
theorem decbDecryptsInPlace : Obligations.DecbDecryptsInPlace := by
  intro s hkey
  refine ⟨fun k => (decAfterRounds s.sp s.ks s.rounds.toNat k s.dataHalves).l,
    fun k => (decAfterRounds s.sp s.ks s.rounds.toNat k s.dataHalves).r,
    rfl, rfl, fun k _ => ?_, exec_decb_of_keyed hkey⟩
  simp only [decAfterRounds_succ, show s.rounds.toNat - 2 - 2 * k = s.rounds.toNat - 1 - 2 * k - 1 by omega]
  exact ⟨rfl, rfl⟩

/-! ### Each traversal undoes the other -/

/-- A run of iterations is undone by the same iterations backwards, each with its two subkeys exchanged (R178). -/
theorem foldl_roundPair_undo (sp : List (List Word)) (ks : List Subkey) (i j : Nat → Nat) (l : List Nat)
    (h : Halves) :
    l.reverse.foldl (fun h k => roundPair sp ks (j k) (i k) h)
      (l.foldl (fun h k => roundPair sp ks (i k) (j k) h) h).swap = h.swap := by
  induction l generalizing h with
  | nil => rfl
  | cons k l ih =>
    rw [List.reverse_cons, List.foldl_append, List.foldl_cons (l := l), ih]
    exact roundPair_undo sp ks (i k) (j k) h

/-- With an even ROUNDS, decryption runs the iterations of encryption backwards with their subkeys exchanged
(R176, R177). -/
theorem decryptHalves_eq_reverse (sp : List (List Word)) (ks : List Subkey) {rounds : Nat} (hr : rounds % 2 = 0)
    (h : Halves) :
    decryptHalves sp ks rounds h =
      (List.range (rounds / 2)).reverse.foldl (fun h k => roundPair sp ks (2 * k + 1) (2 * k) h) h := by
  rw [List.range_eq_range', List.reverse_range', List.foldl_map, Nat.zero_add]
  refine List.foldl_ext _ _ _ fun h k hk => ?_
  have hlt : k < rounds / 2 := List.mem_range.mp hk
  rw [show rounds - 1 - 2 * k = 2 * (rounds / 2 - 1 - k) + 1 by omega, Nat.add_sub_cancel]

theorem State.decHalves_encHalves {s : State} (hr : s.rounds.toNat % 2 = 0) (h : Halves) :
    s.decHalves (s.encHalves h).swap = h.swap := by
  rw [State.decHalves, decryptHalves_eq_reverse _ _ hr]
  exact foldl_roundPair_undo s.sp s.ks (fun k => 2 * k) (fun k => 2 * k + 1) _ h

theorem State.encHalves_decHalves {s : State} (hr : s.rounds.toNat % 2 = 0) (h : Halves) :
    s.encHalves (s.decHalves h).swap = h.swap := by
  rw [State.decHalves, decryptHalves_eq_reverse _ _ hr]
  have hundo := foldl_roundPair_undo s.sp s.ks (fun k => 2 * k + 1) (fun k => 2 * k)
    (List.range (s.rounds.toNat / 2)).reverse h
  rwa [List.reverse_reverse] at hundo

/-- Settles O37: on the loaded halves each traversal undoes the other, and storing exchanges them. -/
theorem decryptionInvertsEncryption : Obligations.DecryptionInvertsEncryption := by
  intro s b hr hb
  constructor
  · rw [State.decryptBlock, State.loadBlock_encryptBlock, State.decHalves_encHalves hr]
    exact storeBlock_loadBlock hb
  · rw [State.encryptBlock, State.loadBlock_decryptBlock, State.encHalves_decHalves hr]
    exact storeBlock_loadBlock hb

/-- An iteration looks at its two subkeys alone. -/
theorem roundPair_congr (sp : List (List Word)) {ks : List Subkey} {i i' j j' : Nat}
    (hi : subkeyAt ks i = subkeyAt ks i') (hj : subkeyAt ks j = subkeyAt ks j') (h : Halves) :
    roundPair sp ks i j h = roundPair sp ks i' j' h := by
  simp only [roundPair, hi, hj]

/-- Under a palindromic schedule the two traversals agree (R181). -/
theorem encryptHalves_eq_decryptHalves (sp : List (List Word)) {ks : List Subkey} {rounds : Nat}
    (hpal : ∀ i < rounds, subkeyAt ks i = subkeyAt ks (rounds - 1 - i)) (h : Halves) :
    encryptHalves sp ks rounds h = decryptHalves sp ks rounds h := by
  refine List.foldl_ext _ _ _ fun h k hk => ?_
  have hlt : k < rounds / 2 := List.mem_range.mp hk
  exact roundPair_congr sp (hpal (2 * k) (by omega)) (hpal (2 * k + 1) (by omega)) h

/-- Settles O38: the traversals agree, so encryption is its own inverse. -/
theorem palindromicScheduleMakesThemEqual : Obligations.PalindromicScheduleMakesThemEqual := by
  intro s b hr hpal
  have heq (c : List Byte) : s.encryptBlock c = s.decryptBlock c :=
    congrArg storeBlock (encryptHalves_eq_decryptHalves s.sp hpal (loadBlock c))
  exact ⟨heq b, fun hb => (heq _).trans (decryptionInvertsEncryption s b hr hb).1⟩

/-- Settles O39: DECB reads the exchanged halves ENCB wrote, over the same SP, KS and ROUNDS. -/
theorem decbRestoresWhatEncbEncrypted : Obligations.DecbRestoresWhatEncbEncrypted := by
  intro s hkey hr
  have hundo := State.decHalves_encHalves hr s.dataHalves
  refine ⟨_, _, exec_encb_of_keyed hkey, exec_decb_of_keyed hkey, ?_, ?_⟩
  · exact congrArg Halves.r hundo
  · exact congrArg Halves.l hundo

end Sys2Proof.Machine
end

section
/-! ENC and DEC (spec/43_multiblock.md): the checks on a keyed engine, and DBUF as a sequence of contents, one for each
block stored, over any block function, so that what holds of such a sequence is proved once for both commands. -/

namespace Sys2Proof.Machine

open Sys2Proof.Stated

/-! ### The checks -/

theorem exec_enc_of_error {s : State} {e : ErrCode} (h : s.encCheck = some e) :
    exec .enc s = .next (s.complete e) := by
  simp [exec, execEnc, h]

theorem exec_enc_of_pass {s : State} (h : s.encCheck = none) : exec .enc s = .next (s.encRun.complete .ok) := by
  simp [exec, execEnc, h]

theorem exec_dec_of_error {s : State} {e : ErrCode} (h : s.decCheck = some e) :
    exec .dec s = .next (s.complete e) := by
  simp [exec, execDec, h]

theorem exec_dec_of_pass {s : State} (h : s.decCheck = none) : exec .dec s = .next (s.decRun.complete .ok) := by
  simp [exec, execDec, h]

/-- Of two range checks one fails where a region leaves DBUF (R68). -/
theorem rangeChecks_of_outside {c : Params} {a n b m : Nat} (h : c.dbufBytes < a + n ∨ c.dbufBytes < b + m) :
    (if ¬ inRange c a n then some ErrCode.range else if ¬ inRange c b m then some .range else none) =
      some .range := by
  rcases h with hsrc | hdst
  · exact if_pos (by simpa [inRange] using hsrc)
  · rw [if_pos (c := ¬ inRange c b m = true) (by simpa [inRange] using hdst), ite_self]

/-- With KEYV = 1 a region beyond DBUF is the one error of ENC (R191). -/
theorem State.encCheck_of_outside {s : State} (hk : s.keyv = true)
    (h : s.cfg.dbufBytes < s.arg0.toNat + s.arg1.toNat ∨
      s.cfg.dbufBytes < s.arg2.toNat + paddedLen s.arg1.toNat) : s.encCheck = some .range :=
  (if_neg (by simp [hk])).trans (rangeChecks_of_outside h)

/-- With KEYV = 1 a partial block under REJECT is the first error of DEC (R192, R235). -/
theorem State.decCheck_of_partial {s : State} (hk : s.keyv = true) (hn : s.arg1.toNat % 8 ≠ 0)
    (hp : s.cfg.decPartial = .reject) : s.decCheck = some .inLen :=
  (if_neg (by simp [hk])).trans (if_pos ⟨hn, hp⟩)

/-- With KEYV = 1 and a length the policy admits, a region beyond DBUF is the error of DEC (R192). -/
theorem State.decCheck_of_outside {s : State} (hk : s.keyv = true)
    (hp : ¬ (s.arg1.toNat % 8 ≠ 0 ∧ s.cfg.decPartial = .reject))
    (h : s.cfg.dbufBytes < s.arg0.toNat + s.arg1.toNat ∨
      s.cfg.dbufBytes < s.arg2.toNat + wholeLen s.arg1.toNat) : s.decCheck = some .range :=
  (if_neg (by simp [hk])).trans ((if_neg hp).trans (rangeChecks_of_outside h))

/-- TRUNCATE is the policy that does not reject (R5). -/
theorem decPartial_admits {c : Params} {n : Nat} (h : n % 8 = 0 ∨ c.decPartial = .truncate) :
    ¬ (n % 8 ≠ 0 ∧ c.decPartial = .reject) := by
  rintro ⟨hn, hr⟩
  rcases h with h | h
  · exact hn h
  · simp [hr] at h

/-- Settles O41: the two range checks are all that is left of ENC's checks with KEYV = 1. -/
theorem encChecksItsRegions : Obligations.EncChecksItsRegions :=
  fun _ hk h => exec_enc_of_error (State.encCheck_of_outside hk h)

/-- Settles O42: the length check stands before the range checks, and excludes them. -/
theorem decChecksInOrder : Obligations.DecChecksInOrder :=
  fun _ hk => ⟨fun hn hp => exec_dec_of_error (State.decCheck_of_partial hk hn hp),
    fun hp h => exec_dec_of_error (State.decCheck_of_outside hk (decPartial_admits hp) h)⟩

/-- ENC of no byte stores no block and sets RESULT = 0 (R195). -/
theorem State.encRun_of_zero {s : State} (h : s.arg1.toNat = 0) : s.encRun = { s with result := 0 } := by
  rw [State.encRun_eq, h]
  rfl

/-- DEC of no byte stores no block and sets RESULT = 0 (R195). -/
theorem State.decRun_of_zero {s : State} (h : s.arg1.toNat = 0) : s.decRun = { s with result := 0 } := by
  rw [State.decRun_eq, h]
  rfl

/-- Settles O46: with n = 0 the range checks are those of the two offsets, and no block is stored. -/
theorem zeroLengthSucceeds : Obligations.ZeroLengthSucceeds := by
  intro s i hi hk h0
  have hn : s.arg1.toNat = 0 := by simp [h0]
  have hmod : ¬ (s.arg1.toNat % 8 ≠ 0 ∧ s.cfg.decPartial = .reject) := by simp [hn]
  split
  next hin =>
    rcases hi with rfl | rfl
    · rw [exec_enc_of_pass (s.encCheck_eq_none.mpr (by simpa [hn, hk, paddedLen] using hin)), State.encRun_of_zero hn]
      rfl
    · rw [exec_dec_of_pass (s.decCheck_eq_none.mpr (by simpa [hn, hk, wholeLen] using hin)), State.decRun_of_zero hn]
      rfl
  next hout =>
    rcases hi with rfl | rfl
    · exact exec_enc_of_error (State.encCheck_of_outside hk (by simp only [hn, paddedLen]; omega))
    · exact exec_dec_of_error (State.decCheck_of_outside hk hmod (by simp only [hn, wholeLen]; omega))

/-! ### The bytes stored -/

theorem paddedLen_div (n : Nat) : paddedLen n / 8 = (n + 7) / 8 := Nat.mul_div_cancel_left _ (by decide)

theorem wholeLen_div (n : Nat) : wholeLen n / 8 = n / 8 := Nat.mul_div_cancel_left _ (by decide)

/-- The padded length is whole blocks (R190). -/
theorem mul_paddedLen_div (n : Nat) : 8 * (paddedLen n / 8) = paddedLen n := congrArg (8 * ·) (paddedLen_div n)

theorem mul_wholeLen_div (n : Nat) : 8 * (wholeLen n / 8) = wholeLen n := congrArg (8 * ·) (wholeLen_div n)

theorem wholeLen_le (n : Nat) : wholeLen n ≤ n := Nat.mul_div_le n 8

/-- Settles O11: a failed completion leaves DBUF, and a run stores to its blocks alone. -/
theorem encAndDecStoreOnlyTheirOutput : Obligations.EncAndDecStoreOnlyTheirOutput := by
  constructor <;> intro s t a h ha
  · rcases exec_cases .enc s with ⟨e, -, he⟩ | ⟨u, he, -, rfl⟩ <;>
      obtain rfl := Host.Outcome.next.inj (he.symm.trans h)
    · rfl
    · exact s.encAfter_dbufByte_outside _ _ _ _ a (by rwa [mul_paddedLen_div])
  · rcases exec_cases .dec s with ⟨e, -, he⟩ | ⟨u, he, -, rfl⟩ <;>
      obtain rfl := Host.Outcome.next.inj (he.symm.trans h)
    · rfl
    · exact s.decAfter_dbufByte_outside _ _ _ a (by rwa [mul_wholeLen_div])

/-! ### DBUF contents, block by block -/

/-- Byte j of an input block: a byte of the contents, or zero padding (R190). -/
theorem byteAt_inputBlock (m : Nat → Byte) (src n k : Nat) {j : Nat} (hj : j < 8) :
    byteAt (inputBlock m src n k) j = if 8 * k + j < n then m (src + 8 * k + j) else 0 := by
  simp [byteAt, inputBlock, hj]

@[simp] theorem inputBlock_length (m : Nat → Byte) (src n k : Nat) : (inputBlock m src n k).length = 8 := by
  simp [inputBlock]

/-- Input block k looks at the contents of its own bytes alone. -/
theorem inputBlock_congr {m m' : Nat → Byte} {src n k : Nat}
    (h : ∀ j < 8, 8 * k + j < n → m (src + 8 * k + j) = m' (src + 8 * k + j)) :
    inputBlock m src n k = inputBlock m' src n k := by
  refine List.map_congr_left fun j hj => ?_
  split
  next hin => exact h j (List.mem_range.mp hj) hin
  next => rfl

theorem storeAt_of_outside (m : Nat → Byte) {a x : Nat} (b : List Byte) (h : x < a ∨ a + 8 ≤ x) :
    storeAt m a b x = m x :=
  if_neg (by omega)

theorem storeAt_add (m : Nat → Byte) (a : Nat) (b : List Byte) {j : Nat} (hj : j < 8) :
    storeAt m a b (a + j) = byteAt b j := by
  simp [storeAt, hj]

/-- ENC reads its block as the statements do. -/
theorem State.encInput_eq (s : State) (src n k : Nat) : s.encInput src n k = inputBlock s.dbufByte src n k :=
  eq_of_byteAt (s.encInput_length src n k) (inputBlock_length ..) fun j hj => by
    rw [s.byteAt_encInput src n k j hj, byteAt_inputBlock _ _ _ _ hj]

/-- DEC reads a whole block as the statements do. -/
theorem State.decInput_eq (s : State) (src : Nat) {n k : Nat} (h : 8 * (k + 1) ≤ n) :
    s.decInput src k = inputBlock s.dbufByte src n k :=
  eq_of_byteAt (s.decInput_length src k) (inputBlock_length ..) fun j hj => by
    rw [s.byteAt_decInput src k j hj, byteAt_inputBlock _ _ _ _ hj, if_pos (by omega)]

/-- The DBUF contents after c blocks: block k is read from the contents of that moment and what `f` makes of it is
stored before block k + 1 is read (R193). -/
def storeBlocks (f : List Byte → List Byte) (src n dst : Nat) (m : Nat → Byte) : Nat → Nat → Byte
  | 0 => m
  | c + 1 => storeAt (storeBlocks f src n dst m c) (dst + 8 * c) (f (inputBlock (storeBlocks f src n dst m c) src n c))

/-- The block steps of ENC go through these contents (R191). -/
theorem State.encAfter_dbufByte (s : State) (src n dst c : Nat) :
    (s.encAfter src n dst c).dbufByte = storeBlocks s.encryptBlock src n dst s.dbufByte c := by
  induction c with
  | zero => rfl
  | succ c ih =>
    funext x
    rw [s.encAfter_succ, encStep_dbufByte, s.encAfter_encryptBlock, State.encInput_eq, ih]
    rfl

/-- The block steps of DEC go through these contents, while the blocks are whole ones (R192). -/
theorem State.decAfter_dbufByte (s : State) (src dst : Nat) {n c : Nat} (h : 8 * c ≤ n) :
    (s.decAfter src dst c).dbufByte = storeBlocks s.decryptBlock src n dst s.dbufByte c := by
  induction c with
  | zero => rfl
  | succ c ih =>
    funext x
    rw [s.decAfter_succ, decStep_dbufByte, s.decAfter_decryptBlock, State.decInput_eq _ _ h, ih (by omega)]
    rfl

section Independent

variable (f : List Byte → List Byte) {src n dst : Nat} (m : Nat → Byte)

theorem storeBlocks_of_outside {c x : Nat} (h : x < dst ∨ dst + 8 * c ≤ x) :
    storeBlocks f src n dst m c x = m x := by
  induction c with
  | zero => rfl
  | succ c ih => rw [storeBlocks, storeAt_of_outside _ _ (by omega), ih (by omega)]

/-- Without a forward overlap the blocks stored before block k are not bytes of input block k (R193). -/
theorem inputBlock_storeBlocks (h : dst ≤ src ∨ src + n ≤ dst) (k : Nat) :
    inputBlock (storeBlocks f src n dst m k) src n k = inputBlock m src n k :=
  inputBlock_congr fun _ _ _ => storeBlocks_of_outside f m (by omega)

/-- Without a forward overlap output block k is `f` of input block k as it was (R194). -/
theorem storeBlocks_block (h : dst ≤ src ∨ src + n ≤ dst) {c k j : Nat} (hk : k < c) (hj : j < 8) :
    storeBlocks f src n dst m c (dst + 8 * k + j) = byteAt (f (inputBlock m src n k)) j := by
  induction c with
  | zero => omega
  | succ c ih =>
    rw [storeBlocks]
    rcases Nat.lt_succ_iff_lt_or_eq.mp hk with hlt | rfl
    · rw [storeAt_of_outside _ _ (by omega), ih hlt]
    · rw [storeAt_add _ _ _ hj, inputBlock_storeBlocks f m h]

end Independent

/-! ### ENC and DEC in full -/

/-- DBUF after the run of ENC (R191). -/
theorem State.encRun_dbufByte_eq_storeBlocks (s : State) :
    s.encRun.dbufByte =
      storeBlocks s.encryptBlock s.arg0.toNat s.arg1.toNat s.arg2.toNat s.dbufByte ((s.arg1.toNat + 7) / 8) := by
  funext x
  rw [s.encRun_dbufByte, s.encAfter_dbufByte, paddedLen_div]

/-- DBUF after the run of DEC (R192). -/
theorem State.decRun_dbufByte_eq_storeBlocks (s : State) :
    s.decRun.dbufByte =
      storeBlocks s.decryptBlock s.arg0.toNat s.arg1.toNat s.arg2.toNat s.dbufByte (s.arg1.toNat / 8) := by
  have hwhole : 8 * (wholeLen s.arg1.toNat / 8) ≤ s.arg1.toNat := by
    rw [mul_wholeLen_div]
    exact wholeLen_le _
  funext x
  rw [s.decRun_dbufByte, s.decAfter_dbufByte _ _ hwhole, wholeLen_div]

theorem dbufBytes_le_of_legal {c : Params} (h : c.legal = true) : c.dbufBytes ≤ 32768 := by
  simp only [Params.legal, Bool.and_eq_true, decide_eq_true_eq] at h
  exact h.2

/-- P(n) fits RESULT, since the destination is inside a DBUF of legal size (R191). -/
theorem State.encRun_result {s : State} (hp : s.cfg.legal = true) (h : s.encCheck = none) :
    s.encRun.result.toNat = paddedLen s.arg1.toNat := by
  obtain ⟨-, -, hdst⟩ := s.encCheck_eq_none.mp h
  have hsize := dbufBytes_le_of_legal hp
  exact Nat.mod_eq_of_lt (by omega)

/-- Q fits RESULT, since it is at most ARG1 (R192). -/
theorem State.decRun_result (s : State) : s.decRun.result.toNat = wholeLen s.arg1.toNat :=
  Nat.mod_eq_of_lt (lt_of_le_of_lt (wholeLen_le _) s.arg1.isLt)

/-- Settles O43: the contents are those the block steps go through. -/
theorem encIsTheSequentialResult : Obligations.EncIsTheSequentialResult := by
  intro s hp hk hsrc hdst
  have hc : s.encCheck = none := s.encCheck_eq_none.mpr ⟨hk, hsrc, hdst⟩
  exact ⟨_, storeBlocks s.encryptBlock s.arg0.toNat s.arg1.toNat s.arg2.toNat s.dbufByte, exec_enc_of_pass hc,
    State.encRun_result hp hc, rfl, rfl, rfl, rfl, fun _ _ => rfl, s.encRun_dbufByte_eq_storeBlocks⟩

/-- Settles O44: the contents are those the block steps go through. -/
theorem decIsTheSequentialResult : Obligations.DecIsTheSequentialResult := by
  intro s _ hk hn hsrc hdst
  have hc : s.decCheck = none := s.decCheck_eq_none.mpr ⟨hk, decPartial_admits hn, hsrc, hdst⟩
  exact ⟨_, storeBlocks s.decryptBlock s.arg0.toNat s.arg1.toNat s.arg2.toNat s.dbufByte, exec_dec_of_pass hc,
    s.decRun_result, rfl, rfl, rfl, rfl, fun _ _ => rfl, s.decRun_dbufByte_eq_storeBlocks⟩

/-- Settles O45: without a forward overlap a stored block depends on its own input block alone. -/
theorem blocksAreIndependentWithoutOverlap : Obligations.BlocksAreIndependentWithoutOverlap := by
  constructor <;> intro s t h he hov k hk j hj <;> obtain ⟨-, rfl⟩ := exec_ok h he
  · exact (congrFun s.encRun_dbufByte_eq_storeBlocks _).trans (storeBlocks_block _ _ hov hk hj)
  · exact (congrFun s.decRun_dbufByte_eq_storeBlocks _).trans (storeBlocks_block _ _ hov hk hj)

/-! ### DEC of ENC -/

theorem State.decryptBlock_congr {s t : State} (h1 : t.sp = s.sp) (h2 : t.ks = s.ks) (h3 : t.rounds = s.rounds)
    (b : List Byte) : t.decryptBlock b = s.decryptBlock b :=
  congrArg storeBlock (State.decHalves_congr h1 h2 h3 _)

theorem State.encRun_decryptBlock (s : State) (b : List Byte) : s.encRun.decryptBlock b = s.decryptBlock b := by
  obtain ⟨d, l, r, h⟩ := s.encRun_frame
  rw [h]
  rfl

/-- A byte ENC stored reads the same in every state with that DBUF, whatever is drawn for unwritten bytes. -/
theorem State.dbufByte_of_encRun {s u : State} (h : u.dbuf = s.encRun.dbuf) {x : Nat} (hlo : s.arg2.toNat ≤ x)
    (hhi : x < s.arg2.toNat + paddedLen s.arg1.toNat) : u.dbufByte x = s.encRun.dbufByte x :=
  State.dbufByte_of_isSome (s.encAfter_read_isSome s.arg0.toNat s.arg1.toNat s.arg2.toNat _ x
    ⟨hlo, by rwa [mul_paddedLen_div]⟩) h

/-- Block k of ENC's output, read as an input block, is the encryption of ENC's input block k (R194). -/
theorem State.inputBlock_of_encRun {s u : State} (hd : u.dbuf = s.encRun.dbuf)
    (hov : s.arg2.toNat ≤ s.arg0.toNat ∨ s.arg0.toNat + s.arg1.toNat ≤ s.arg2.toNat) {k : Nat}
    (hk : k < (s.arg1.toNat + 7) / 8) :
    inputBlock u.dbufByte s.arg2.toNat (paddedLen s.arg1.toNat) k =
      s.encryptBlock (inputBlock s.dbufByte s.arg0.toNat s.arg1.toNat k) := by
  refine eq_of_byteAt (inputBlock_length ..) rfl fun j hj => ?_
  have hin : 8 * k + j < paddedLen s.arg1.toNat := by simp only [paddedLen]; omega
  rw [byteAt_inputBlock _ _ _ _ hj, if_pos hin, State.dbufByte_of_encRun hd (by omega) (by omega),
    s.encRun_dbufByte_eq_storeBlocks, storeBlocks_block _ _ hov hk hj]

/-- Settles O47: block k of DEC is the decryption of the encryption of ENC's block k, padding included. -/
theorem decOfEncRestoresTheInput : Obligations.DecOfEncRestoresTheInput := by
  intro s t u v ht hte hp hr hov hsp hks hrounds hdbuf hsrc hlen hov' hv hve
  obtain ⟨hc, rfl⟩ := exec_ok ht hte
  obtain ⟨-, rfl⟩ := exec_ok hv hve
  have hres : s.encRun.result.toNat = paddedLen s.arg1.toNat := State.encRun_result hp hc
  have harg0 : u.arg0 = s.arg2 := by
    obtain ⟨d, l, r, h⟩ := s.encRun_frame
    rw [hsrc, h]
    rfl
  have harg1 : u.arg1.toNat = paddedLen s.arg1.toNat := (congrArg BitVec.toNat hlen).trans hres
  have hdec (b : List Byte) : u.decryptBlock b = s.decryptBlock b :=
    (State.decryptBlock_congr hsp hks hrounds b).trans (s.encRun_decryptBlock b)
  constructor
  · refine BitVec.eq_of_toNat_eq (u.decRun_result.trans ?_)
    rw [harg1, wholeLen, paddedLen_div]
    exact hres.symm
  · intro j hj
    have hjP : j < 8 * ((s.arg1.toNat + 7) / 8) := lt_of_lt_of_eq hj hres
    have hk : j / 8 < (s.arg1.toNat + 7) / 8 := by omega
    have hk' : j / 8 < u.arg1.toNat / 8 := by rwa [harg1, paddedLen_div]
    have hi : j % 8 < 8 := Nat.mod_lt _ (by decide)
    have hsplit : 8 * (j / 8) + j % 8 = j := Nat.div_add_mod j 8
    have hblock := blocksAreIndependentWithoutOverlap.2 u _ hv hve hov' (j / 8) hk' (j % 8) hi
    rw [hdec, harg0, harg1, State.inputBlock_of_encRun hdbuf hov hk,
      (decryptionInvertsEncryption s _ hr (inputBlock_length ..)).1, byteAt_inputBlock _ _ _ _ hi] at hblock
    simpa only [Nat.add_assoc, hsplit] using hblock

end Sys2Proof.Machine
end

section
/-! NOP and CLEAR (spec/44_lifecycle.md): what CLEAR does once, and the all-zero schedule it leaves, which is its own
reversal. -/

namespace Sys2Proof.Machine

/-- Settles O20: NOP is the completion with ERR = 0x00 alone. -/
theorem nopOnlyCompletes : Obligations.NopOnlyCompletes := ⟨decode_encode .nop, fun _ => rfl⟩

/-- The state with every KS entry zero (R210). -/
def State.zeroSchedule (s : State) : State := { s with ks := s.ks.map fun _ => ⟨0, 0, 0⟩ }

theorem exec_clear (s : State) : exec .clear s = .next (s.zeroSchedule.complete .ok) := rfl

theorem State.zeroSchedule_ks (s : State) : s.zeroSchedule.ks = List.replicate s.ks.length ⟨0, 0, 0⟩ :=
  List.map_const' ..

/-- A subkey outside KS reads as zero as well, so the schedule CLEAR leaves is zero at every index. -/
@[simp] theorem State.subkeyAt_zeroSchedule (s : State) (i : Nat) : subkeyAt s.zeroSchedule.ks i = ⟨0, 0, 0⟩ := by
  rw [State.zeroSchedule_ks, subkeyAt, List.getD_eq_getElem?_getD,
    List.getElem?_getD_replicate_default_eq]

/-- A second CLEAR finds nothing to do. -/
theorem State.zeroSchedule_complete_zeroSchedule (s : State) (e : ErrCode) :
    (s.zeroSchedule.complete e).zeroSchedule.complete e = s.zeroSchedule.complete e := by
  simp [State.zeroSchedule, State.complete]

/-- Settles O21: the map over KS is the zero schedule of KS's length, which is KS_ENTRIES. -/
theorem clearZeroesTheSchedule : Obligations.ClearZeroesTheSchedule := by
  intro s hlen
  rw [exec_clear, ← hlen, ← State.zeroSchedule_ks]
  rfl

/-- Settles O22: zeroing the schedule and completing are each idempotent. -/
theorem clearTwiceIsClearOnce : Obligations.ClearTwiceIsClearOnce := by
  intro s t h
  obtain rfl : s.zeroSchedule.complete .ok = t := Host.Outcome.next.inj h
  refine ⟨?_, s.subkeyAt_zeroSchedule⟩
  rw [exec_clear, State.zeroSchedule_complete_zeroSchedule]

/-- ENCB and DECB differ in the order of the subkeys alone, so under a palindromic schedule they are one command,
on a keyed engine and on one without a key (R181). -/
theorem exec_encb_eq_exec_decb {s : State}
    (hpal : ∀ i < s.rounds.toNat, subkeyAt s.ks i = subkeyAt s.ks (s.rounds.toNat - 1 - i)) :
    exec .encb s = exec .decb s := by
  have heq : s.encHalves s.dataHalves = s.decHalves s.dataHalves := encryptHalves_eq_decryptHalves s.sp hpal _
  simp only [exec, execEncb, execDecb, heq]

/-- Settles O23: the schedule CLEAR leaves has one subkey at every index, so it is a palindrome (R181). -/
theorem afterClearEncryptionIsAnInvolution : Obligations.AfterClearEncryptionIsAnInvolution := by
  intro s t h hr
  have hzero : ∀ i, subkeyAt t.ks i = ⟨0, 0, 0⟩ := (clearTwiceIsClearOnce s t h).2
  have hpal : ∀ i < t.rounds.toNat, subkeyAt t.ks i = subkeyAt t.ks (t.rounds.toNat - 1 - i) :=
    fun i _ => (hzero i).trans (hzero _).symm
  exact ⟨exec_encb_eq_exec_decb hpal, fun b => (palindromicScheduleMakesThemEqual t b hr hpal).2⟩

end Sys2Proof.Machine
end

section
/-! Completions (spec/60_exceptions.md): every command ends in one, and a failed command is nothing but one. -/

namespace Sys2Proof.Machine

open Sys2Proof.Stated

/-- Every command ends in a completion (R230). -/
theorem exec_completes (i : Instr) (s : State) : ∃ (e : ErrCode) (u : State), exec i s = .next (u.complete e) := by
  rcases exec_cases i s with ⟨e, -, he⟩ | ⟨u, hu, -⟩
  · exact ⟨e, s, he⟩
  · exact ⟨.ok, u, hu⟩

theorem engineTurn_next (s : State) : ∃ t, engineTurn s = .next t := by
  rcases engineTurn_cases s with ⟨-, h⟩ | ⟨-, i, -, h⟩ | ⟨-, -, h⟩
  · exact ⟨s, h⟩
  · obtain ⟨e, u, hu⟩ := exec_completes i s
    exact ⟨u.complete e, h.trans hu⟩
  · exact ⟨s.complete .illegal, h⟩

theorem step_next (s : State) : ∃ t, step s = .next t := by
  rcases step_cases s with ⟨-, h⟩ | ⟨op, -, h⟩ | ⟨-, h⟩
  · obtain ⟨t, ht⟩ := engineTurn_next s.tick
    exact ⟨t, h.trans ht⟩
  · exact ⟨s.tick.hostAccess op, h⟩
  · exact ⟨s.tick.resetEvent, h⟩

/-- Settles O7: what a completion leaves is idle with DONE set and a code of the table, and a step is a turn of the
engine, a host access or a reset, which all answer a next state. -/
theorem everyCommandCompletes : Obligations.EveryCommandCompletes := by
  refine ⟨fun i s => ?_, step_next⟩
  obtain ⟨e, u, hu⟩ := exec_completes i s
  exact ⟨u.complete e, hu, u.complete_cstate e, u.complete_done e, e.code_le⟩

/-- Settles O12: a command that does more than complete leaves ERR at 0x00, so the failed one only completes. -/
theorem failedCommandWritesNothingElse : Obligations.FailedCommandWritesNothingElse := by
  intro i s t h herr
  rcases exec_cases i s with ⟨e, -, he⟩ | ⟨u, hu, -⟩
  · obtain rfl := Host.Outcome.next.inj (he.symm.trans h)
    rfl
  · obtain rfl := Host.Outcome.next.inj (hu.symm.trans h)
    exact absurd (u.complete_err .ok) herr

end Sys2Proof.Machine
end

section
/-! Progress and reset of a busy engine (spec/70_reset_and_hazards.md): a step of a busy machine completes the command,
abandons it, or uses up one host access; and what a reset leaves of the output an abandoned ENC or DEC had begun. -/

namespace Sys2Proof.Machine

/-! ### Progress -/

/-- The engine's turn while busy ends in a completion, of a command or of a reserved word (R22, R230, R234). -/
theorem engineTurn_of_busy {s : State} (hb : s.cstate = .busy) :
    ∃ (e : ErrCode) (u : State), engineTurn s = .next (u.complete e) := by
  rcases engineTurn_cases s with ⟨hi, -⟩ | ⟨-, i, -, h⟩ | ⟨-, -, h⟩
  · simp [hb] at hi
  · obtain ⟨e, u, hu⟩ := exec_completes i s
    exact ⟨e, u, h.trans hu⟩
  · exact ⟨.illegal, s, h⟩

theorem HostEffect.events_eq {s t : State} {op : HostOp} (he : HostEffect s op t) : t.events = s.events := by
  cases he <;> rfl

/-- No host access completes a command (R22, R83). -/
theorem HostEffect.keeps_busy {s t : State} {op : HostOp} (he : HostEffect s op t) (hb : s.cstate = .busy) :
    t.cstate = .busy := by
  cases he with
  | issue => rfl
  | none | status | inten | overrun32 | overrun8 | operand | dbuf8 | dbuf32 => exact hb

@[simp] theorem State.hostAccess_events (s : State) (op : HostOp) : (s.hostAccess op).events = s.events := by
  obtain ⟨p, t, he, hx⟩ := s.hostAccess_effect op
  rw [hx, State.respond_events, he.events_eq]

theorem State.hostAccess_cstate_of_busy {s : State} (hb : s.cstate = .busy) (op : HostOp) :
    (s.hostAccess op).cstate = .busy := by
  obtain ⟨p, t, he, hx⟩ := s.hostAccess_effect op
  rw [hx, State.respond_cstate, he.keeps_busy hb]

/-- One step of a busy machine either leaves it idle, with DONE set unless a reset stands in the schedule, or takes one
host access from the schedule and leaves it busy (R22, R77, R260). -/
theorem step_of_busy {s : State} (hb : s.cstate = .busy) :
    ∃ t, step s = .next t ∧
      ((t.cstate = .idle ∧ (Event.reset ∉ s.events → t.done = true)) ∨
        (t.cstate = .busy ∧ ∃ op, s.events = .host op :: t.events)) := by
  rcases step_cases s with ⟨-, h⟩ | ⟨op, hd, h⟩ | ⟨hd, h⟩
  · obtain ⟨e, u, hu⟩ := engineTurn_of_busy (s := s.tick) hb
    exact ⟨_, h.trans hu, .inl ⟨u.complete_cstate e, fun _ => u.complete_done e⟩⟩
  · refine ⟨_, h, .inr ⟨State.hostAccess_cstate_of_busy (s := s.tick) hb op, op, ?_⟩⟩
    rw [State.hostAccess_events, State.tick_events]
    exact List.eq_cons_of_mem_head? hd
  · exact ⟨_, h, .inl ⟨rfl, fun hr => absurd (List.mem_of_mem_head? hd) hr⟩⟩

/-- Settles O8, by induction on the schedule: a step that does not leave the engine idle shortens it by one host
access. -/
theorem issuedCommandIsEventuallyExecuted : Obligations.IssuedCommandIsEventuallyExecuted := by
  intro s hb
  induction hes : s.events generalizing s with
  | nil =>
    obtain ⟨t, hstep, ⟨hidle, hdone⟩ | ⟨-, op, hop⟩⟩ := step_of_busy hb
    · exact ⟨1, le_rfl, t, core_run_next hstep 0, hidle, hes ▸ hdone⟩
    · simp [hes] at hop
  | cons ev rest ih =>
    obtain ⟨t, hstep, ⟨hidle, hdone⟩ | ⟨hbusy, op, hop⟩⟩ := step_of_busy hb
    · exact ⟨1, by simp, t, core_run_next hstep 0, hidle, hes ▸ hdone⟩
    · obtain ⟨rfl, rfl⟩ := List.cons.inj (hes.symm.trans hop)
      obtain ⟨k, hk, u, hrun, hidle, hdone⟩ := ih t hbusy rfl
      exact ⟨k + 1, Nat.succ_le_succ hk, u, (core_run_next hstep k).trans hrun, hidle,
        fun hr => hdone fun hmem => hr (List.mem_cons_of_mem _ hmem)⟩

/-! ### Reset while busy -/

/-- The output region of an ENC that passes its checks (R191). -/
theorem State.pendingOutput_of_enc {s : State} (hd : decode s.pend = some .enc) (hc : s.encCheck = none) :
    s.pendingOutput = (s.arg2.toNat, paddedLen s.arg1.toNat) := by
  simp [State.pendingOutput, hd, hc]

/-- The output region of a DEC that passes its checks (R192). -/
theorem State.pendingOutput_of_dec {s : State} (hd : decode s.pend = some .dec) (hc : s.decCheck = none) :
    s.pendingOutput = (s.arg2.toNat, wholeLen s.arg1.toNat) := by
  simp [State.pendingOutput, hd, hc]

theorem State.pendingByte_of_enc {s : State} (hd : decode s.pend = some .enc) (a : Nat) :
    s.pendingByte a = s.encRun.dbufByte a := by
  simp [State.pendingByte, hd]

theorem State.pendingByte_of_dec {s : State} (hd : decode s.pend = some .dec) (a : Nat) :
    s.pendingByte a = s.decRun.dbufByte a := by
  simp [State.pendingByte, hd]

theorem State.abandonedByte_eq_or (s : State) (a : Nat) :
    s.abandonedByte a = s.dbufByte a ∨ s.abandonedByte a = s.pendingByte a :=
  ite_eq_or_eq _ _ _

/-- A reset while busy lists every byte of the pending output region (R262). -/
theorem State.resetEvent_dbufByte_of_busy {s : State} (hb : s.cstate = .busy) {a n k : Nat}
    (hout : s.pendingOutput = (a, n)) (hk : k < n) :
    s.resetEvent.dbufByte (a + k) = s.abandonedByte (a + k) := by
  have hread : s.resetDbuf.read (a + k) = some (s.abandonedByte (a + k)) := by
    simp [State.resetDbuf, s.busy_iff.mpr hb, hout, Memory.read_writeBytes, byteAt, hk]
  simp [State.dbufByte, hread]

/-- After a reset while busy a byte of the pending output region holds its old value or the one the command would have
given it (R262). -/
theorem State.resetEvent_old_or_new {s : State} (hb : s.cstate = .busy) {a n k : Nat}
    (hout : s.pendingOutput = (a, n)) (hk : k < n) :
    s.resetEvent.dbufByte (a + k) = s.dbufByte (a + k) ∨
      s.resetEvent.dbufByte (a + k) = s.pendingByte (a + k) := by
  rw [State.resetEvent_dbufByte_of_busy hb hout hk]
  exact s.abandonedByte_eq_or (a + k)

/-- Settles O60: the step is `resetEvent`, and a command that would succeed has passed its checks, so its output region
is pending and its result is what `pendingByte` reads. -/
theorem resetWhileBusyAbandonsTheCommand : Obligations.ResetWhileBusyAbandonsTheCommand := by
  intro s t u i hd hb hi hstep hx he
  obtain rfl := Host.Outcome.next.inj ((step_of_reset hd).symm.trans hstep)
  replace hb : s.tick.cstate = .busy := hb
  replace hi : decode s.tick.pend = some i := hi
  refine ⟨rfl, rfl, rfl, ?_, ?_⟩ <;> rintro k rfl hk <;> obtain ⟨hc, rfl⟩ := exec_ok hx he
  · rw [State.complete_dbufByte, ← State.pendingByte_of_enc hi]
    exact State.resetEvent_old_or_new hb (State.pendingOutput_of_enc hi hc) hk
  · rw [State.complete_dbufByte, ← State.pendingByte_of_dec hi]
    exact State.resetEvent_old_or_new hb (State.pendingOutput_of_dec hi hc) hk

end Sys2Proof.Machine
end
